-- ==== Sys2Proof/Word.lean ====
section
/-! DEFINITION. The word types of the core (00_scope.md rules R5, R7): bytes, 16-bit words, register
numbers. All quantities are unsigned; nothing is sign-extended anywhere (R7). -/

namespace Sys2Proof

/-- A register, a memory byte, a timer or the immediate `kk`: `XLEN` = 8 bits (R5). -/
abbrev Byte := BitVec 8

/-- `PC`, `I`, a stack entry or an instruction word: 16 bits (R5). -/
abbrev Word := BitVec 16

/-- The number of a general register, V0 to VF: `NREG` = 16 (R5, R21). -/
abbrev Reg := Fin 16

end Sys2Proof
end

