-- ==== Sys2Proof/Syntax.lean ====
section
/-! DEFINITION. The instructions: one constructor per row of spec/opcode_table.json, in the table's order
(30_encoding.md rule R76). An operand has exactly the range of its field (R71, R74), so no term of
`Instr` is out of range. -/

namespace Sys2Proof

/-- The 34 instructions. `x`, `y` are register numbers, `kk` an unsigned byte, `n` an unsigned nibble,
`nnn` a 12-bit address (R71). The comment of each gives the pattern, its primary name (R80). -/
inductive Instr where
  | cls                                  -- 00E0
  | ret                                  -- 00EE
  | jp    (nnn : BitVec 12)              -- 1NNN
  | call  (nnn : BitVec 12)              -- 2NNN
  | sei   (x : Reg) (kk : Byte)          -- 3XKK
  | snei  (x : Reg) (kk : Byte)          -- 4XKK
  | ser   (x y : Reg)                    -- 5XY0
  | ldi   (x : Reg) (kk : Byte)          -- 6XKK
  | addi  (x : Reg) (kk : Byte)          -- 7XKK
  | mov   (x y : Reg)                    -- 8XY0
  | or    (x y : Reg)                    -- 8XY1
  | and   (x y : Reg)                    -- 8XY2
  | xor   (x y : Reg)                    -- 8XY3
  | add   (x y : Reg)                    -- 8XY4
  | sub   (x y : Reg)                    -- 8XY5
  | shr   (x y : Reg)                    -- 8XY6, `y` is encoded and ignored (R129)
  | subn  (x y : Reg)                    -- 8XY7
  | shl   (x y : Reg)                    -- 8XYE, `y` is encoded and ignored (R131)
  | sner  (x y : Reg)                    -- 9XY0
  | ldix  (nnn : BitVec 12)              -- ANNN
  | jpv0  (nnn : BitVec 12)              -- BNNN
  | rnd   (x : Reg) (kk : Byte)          -- CXKK
  | drw   (x y : Reg) (n : BitVec 4)     -- DXYN
  | skp   (x : Reg)                      -- EX9E
  | sknp  (x : Reg)                      -- EXA1
  | rddt  (x : Reg)                      -- FX07
  | wkey  (x : Reg)                      -- FX0A
  | wrdt  (x : Reg)                      -- FX15
  | wrst  (x : Reg)                      -- FX18
  | addix (x : Reg)                      -- FX1E
  | font  (x : Reg)                      -- FX29
  | bcd   (x : Reg)                      -- FX33
  | stm   (x : Reg)                      -- FX55
  | ldm   (x : Reg)                      -- FX65
deriving DecidableEq, Repr

end Sys2Proof
end

