-- ==== Sys2Proof/WellFormed.lean ====
section
/-! DEFINITION. What is well formed. An `Instr` is well formed by its type (Syntax.lean), so the checks are
on what comes from outside: an instruction word, which must match a row of the opcode map, and a
program image, which must fit in memory. -/

namespace Sys2Proof

/-- One row of the opcode map (30_encoding.md rule R76): a word `w` matches when
`w AND mask = pattern` (R73). -/
structure OpcodeRow where
  mnemonic : String
  pattern  : Word
  mask     : Word
deriving DecidableEq, Repr

/-- The six formats' masks (R73): Z, A/RI/RRN, RR, R. -/
def OpcodeRow.matches (r : OpcodeRow) (w : Word) : Bool := w &&& r.mask == r.pattern

/-- Rows 1 to 9 of rule R76, and the row of 9XY0. -/
def opcodeRowsMain : List OpcodeRow :=
  [⟨"CLS", 0x00E0, 0xFFFF⟩, ⟨"RET", 0x00EE, 0xFFFF⟩, ⟨"JP", 0x1000, 0xF000⟩, ⟨"CALL", 0x2000, 0xF000⟩,
   ⟨"SEI", 0x3000, 0xF000⟩, ⟨"SNEI", 0x4000, 0xF000⟩, ⟨"SER", 0x5000, 0xF00F⟩,
   ⟨"LDI", 0x6000, 0xF000⟩, ⟨"ADDI", 0x7000, 0xF000⟩]

/-- Rows 10 to 18 of rule R76: group 8. -/
def opcodeRows8 : List OpcodeRow :=
  [⟨"MOV", 0x8000, 0xF00F⟩, ⟨"OR", 0x8001, 0xF00F⟩, ⟨"AND", 0x8002, 0xF00F⟩, ⟨"XOR", 0x8003, 0xF00F⟩,
   ⟨"ADD", 0x8004, 0xF00F⟩, ⟨"SUB", 0x8005, 0xF00F⟩, ⟨"SHR", 0x8006, 0xF00F⟩, ⟨"SUBN", 0x8007, 0xF00F⟩,
   ⟨"SHL", 0x800E, 0xF00F⟩]

/-- Rows 19 to 23 of rule R76. -/
def opcodeRows9toD : List OpcodeRow :=
  [⟨"SNER", 0x9000, 0xF00F⟩, ⟨"LDIX", 0xA000, 0xF000⟩, ⟨"JPV0", 0xB000, 0xF000⟩, ⟨"RND", 0xC000, 0xF000⟩,
   ⟨"DRW", 0xD000, 0xF000⟩]

/-- Rows 24 to 34 of rule R76: groups E and F. -/
def opcodeRowsEF : List OpcodeRow :=
  [⟨"SKP", 0xE09E, 0xF0FF⟩, ⟨"SKNP", 0xE0A1, 0xF0FF⟩, ⟨"RDDT", 0xF007, 0xF0FF⟩, ⟨"WKEY", 0xF00A, 0xF0FF⟩,
   ⟨"WRDT", 0xF015, 0xF0FF⟩, ⟨"WRST", 0xF018, 0xF0FF⟩, ⟨"ADDIX", 0xF01E, 0xF0FF⟩, ⟨"FONT", 0xF029, 0xF0FF⟩,
   ⟨"BCD", 0xF033, 0xF0FF⟩, ⟨"STM", 0xF055, 0xF0FF⟩, ⟨"LDM", 0xF065, 0xF0FF⟩]

/-- The complete opcode map, 34 rows and no others (R76). -/
def opcodeRows : List OpcodeRow := opcodeRowsMain ++ opcodeRows8 ++ opcodeRows9toD ++ opcodeRowsEF

/-- The rows a word matches. -/
def rowsOf (w : Word) : List OpcodeRow := opcodeRows.filter (·.matches w)

/-- A word is well formed when it matches a row of the map; the others are the Unknown words (R77). -/
def wordWellFormed (w : Word) : Bool := opcodeRows.any (·.matches w)

/-- A program image is well formed when it fits between 0x200 and 0xFFF: at most `ROM_MAX` = 3584
bytes (R5, R230). -/
def romWellFormed (rom : List Byte) : Bool := decide (rom.length ≤ 3584)

/-- The mnemonic of an instruction (R76, R80). -/
def Instr.mnemonic : Instr → String
  | .cls => "CLS" | .ret => "RET" | .jp _ => "JP" | .call _ => "CALL"
  | .sei _ _ => "SEI" | .snei _ _ => "SNEI" | .ser _ _ => "SER" | .ldi _ _ => "LDI" | .addi _ _ => "ADDI"
  | .mov _ _ => "MOV" | .or _ _ => "OR" | .and _ _ => "AND" | .xor _ _ => "XOR" | .add _ _ => "ADD"
  | .sub _ _ => "SUB" | .shr _ _ => "SHR" | .subn _ _ => "SUBN" | .shl _ _ => "SHL" | .sner _ _ => "SNER"
  | .ldix _ => "LDIX" | .jpv0 _ => "JPV0" | .rnd _ _ => "RND" | .drw _ _ _ => "DRW"
  | .skp _ => "SKP" | .sknp _ => "SKNP" | .rddt _ => "RDDT" | .wkey _ => "WKEY" | .wrdt _ => "WRDT"
  | .wrst _ => "WRST" | .addix _ => "ADDIX" | .font _ => "FONT" | .bcd _ => "BCD" | .stm _ => "STM"
  | .ldm _ => "LDM"

end Sys2Proof
end

