-- ==== Sys2Proof/Decode.lean ====
section
/-! DEFINITION. The decoder, total on any word and any bytes, and after it the encoder (30_encoding.md rules
R71 to R78). A word that matches no pattern is rejected by the name of its group (R78). -/

namespace Sys2Proof

/-- The groups of Unknown words, as the table of rule R78 lists them. -/
inductive UnknownWord where
  /-- `0nnn` other than 0x00E0 and 0x00EE. -/
  | group0
  /-- `5XYn` with `n ≠ 0`. -/
  | group5
  /-- `8XYn` with `n` in 8, 9, A, B, C, D, F. -/
  | group8
  /-- `9XYn` with `n ≠ 0`. -/
  | group9
  /-- `EXkk` with `kk` not 9E or A1. -/
  | groupE
  /-- `FXkk` with `kk` not one of the nine listed low bytes. -/
  | groupF
deriving DecidableEq, Repr

/-- Why a list of bytes gives no instruction. -/
inductive Reject where
  /-- Fewer than the two bytes every instruction has (R79). -/
  | truncated
  /-- The first two bytes are an Unknown word. -/
  | unknown (u : UnknownWord)
deriving DecidableEq, Repr

/-- Bits 15:12, the leading nibble, the primary dispatch key (R71, R75). -/
def fieldOp (w : Word) : BitVec 4 := w.extractLsb' 12 4

/-- Bits 11:8 as a register number (R71). -/
def fieldX (w : Word) : Reg := (w.extractLsb' 8 4).toFin

/-- Bits 7:4 as a register number (R71). -/
def fieldY (w : Word) : Reg := (w.extractLsb' 4 4).toFin

/-- Bits 3:0 (R71). -/
def fieldN (w : Word) : BitVec 4 := w.extractLsb' 0 4

/-- Bits 7:0, the low byte (R71). -/
def fieldKK (w : Word) : Byte := w.extractLsb' 0 8

/-- Bits 11:0, an address (R71). -/
def fieldNNN (w : Word) : BitVec 12 := w.extractLsb' 0 12

/-- Secondary dispatch of group 0: the whole word must be 0x00E0 or 0x00EE (R75). -/
def decodeGroup0 (w : Word) : Except UnknownWord Instr :=
  if w = 0x00E0 then .ok .cls
  else if w = 0x00EE then .ok .ret
  else .error .group0

/-- Secondary dispatch of group 8 on the low nibble (R75). -/
def decodeGroup8 (w : Word) : Except UnknownWord Instr :=
  match (fieldN w).toNat with
  | 0x0 => .ok (.mov (fieldX w) (fieldY w))
  | 0x1 => .ok (.or (fieldX w) (fieldY w))
  | 0x2 => .ok (.and (fieldX w) (fieldY w))
  | 0x3 => .ok (.xor (fieldX w) (fieldY w))
  | 0x4 => .ok (.add (fieldX w) (fieldY w))
  | 0x5 => .ok (.sub (fieldX w) (fieldY w))
  | 0x6 => .ok (.shr (fieldX w) (fieldY w))
  | 0x7 => .ok (.subn (fieldX w) (fieldY w))
  | 0xE => .ok (.shl (fieldX w) (fieldY w))
  | _ => .error .group8

/-- Secondary dispatch of group E on the low byte (R75). -/
def decodeGroupE (w : Word) : Except UnknownWord Instr :=
  if fieldKK w = 0x9E then .ok (.skp (fieldX w))
  else if fieldKK w = 0xA1 then .ok (.sknp (fieldX w))
  else .error .groupE

/-- Secondary dispatch of group F on the low byte (R75). -/
def decodeGroupF (w : Word) : Except UnknownWord Instr :=
  if fieldKK w = 0x07 then .ok (.rddt (fieldX w))
  else if fieldKK w = 0x0A then .ok (.wkey (fieldX w))
  else if fieldKK w = 0x15 then .ok (.wrdt (fieldX w))
  else if fieldKK w = 0x18 then .ok (.wrst (fieldX w))
  else if fieldKK w = 0x1E then .ok (.addix (fieldX w))
  else if fieldKK w = 0x29 then .ok (.font (fieldX w))
  else if fieldKK w = 0x33 then .ok (.bcd (fieldX w))
  else if fieldKK w = 0x55 then .ok (.stm (fieldX w))
  else if fieldKK w = 0x65 then .ok (.ldm (fieldX w))
  else .error .groupF

/-- Decode one instruction word: two-level dispatch, every fixed digit of a pattern checked
(R75, R76; log entry 15). -/
def decode (w : Word) : Except UnknownWord Instr :=
  match (fieldOp w).toNat with
  | 0x0 => decodeGroup0 w
  | 0x1 => .ok (.jp (fieldNNN w))
  | 0x2 => .ok (.call (fieldNNN w))
  | 0x3 => .ok (.sei (fieldX w) (fieldKK w))
  | 0x4 => .ok (.snei (fieldX w) (fieldKK w))
  | 0x5 => if fieldN w = 0 then .ok (.ser (fieldX w) (fieldY w)) else .error .group5
  | 0x6 => .ok (.ldi (fieldX w) (fieldKK w))
  | 0x7 => .ok (.addi (fieldX w) (fieldKK w))
  | 0x8 => decodeGroup8 w
  | 0x9 => if fieldN w = 0 then .ok (.sner (fieldX w) (fieldY w)) else .error .group9
  | 0xA => .ok (.ldix (fieldNNN w))
  | 0xB => .ok (.jpv0 (fieldNNN w))
  | 0xC => .ok (.rnd (fieldX w) (fieldKK w))
  | 0xD => .ok (.drw (fieldX w) (fieldY w) (fieldN w))
  | 0xE => decodeGroupE w
  | _ => decodeGroupF w

/-- Two bytes as the fetch reads them: the byte at the lower address is bits 15 to 8 (20_memory.md rule
R50). -/
def wordOfBytes (hi lo : Byte) : Word := hi ++ lo

/-- Decode the instruction at the front of a list of bytes and give the bytes after it. -/
def decodeBytes : List Byte → Except Reject (Instr × List Byte)
  | hi :: lo :: rest =>
    match decode (wordOfBytes hi lo) with
    | .ok i => .ok (i, rest)
    | .error u => .error (.unknown u)
  | _ => .error .truncated

/-- The byte at the lower address of a stored word: `op * 16 + x` (R71). -/
def highByte (w : Word) : Byte := w.extractLsb' 8 8

/-- The byte at the higher address of a stored word: `kk` (R71). -/
def lowByte (w : Word) : Byte := w.extractLsb' 0 8

/-- The first `nbits` bits of an instruction, the rest zero, as one 16-bit word (R79: there is no other
length). -/
def tableWord (nbits w : Nat) : Word := BitVec.ofNat 16 (w % 2 ^ nbits)

/-- The instruction the decoder reads from the bits `w` of a row of spec/opcode_table.json: the word is laid
out big-endian, high byte at the lower address (R50), and given to the decoder. -/
def decodeTableWord (nbits w : Nat) : Option Instr :=
  match decodeBytes [highByte (tableWord nbits w), lowByte (tableWord nbits w)] with
  | .ok (i, _) => some i
  | .error _ => none

/-- Format A: fixed leading nibble, 12-bit address (R73). -/
def formatA (op : BitVec 4) (nnn : BitVec 12) : Word := op ++ nnn

/-- Format RI: fixed leading nibble, register, immediate byte (R73). -/
def formatRI (op : BitVec 4) (x : Reg) (kk : Byte) : Word := op ++ (BitVec.ofFin x : BitVec 4) ++ kk

/-- Formats RR and RRN: fixed leading nibble, two registers, last nibble (R73). -/
def formatRR (op : BitVec 4) (x y : Reg) (n : BitVec 4) : Word :=
  op ++ (BitVec.ofFin x : BitVec 4) ++ (BitVec.ofFin y : BitVec 4) ++ n

/-- The word of an instruction, written from the patterns of rule R76. -/
def encode : Instr → Word
  | .cls => 0x00E0
  | .ret => 0x00EE
  | .jp nnn => formatA 0x1 nnn
  | .call nnn => formatA 0x2 nnn
  | .sei x kk => formatRI 0x3 x kk
  | .snei x kk => formatRI 0x4 x kk
  | .ser x y => formatRR 0x5 x y 0x0
  | .ldi x kk => formatRI 0x6 x kk
  | .addi x kk => formatRI 0x7 x kk
  | .mov x y => formatRR 0x8 x y 0x0
  | .or x y => formatRR 0x8 x y 0x1
  | .and x y => formatRR 0x8 x y 0x2
  | .xor x y => formatRR 0x8 x y 0x3
  | .add x y => formatRR 0x8 x y 0x4
  | .sub x y => formatRR 0x8 x y 0x5
  | .shr x y => formatRR 0x8 x y 0x6
  | .subn x y => formatRR 0x8 x y 0x7
  | .shl x y => formatRR 0x8 x y 0xE
  | .sner x y => formatRR 0x9 x y 0x0
  | .ldix nnn => formatA 0xA nnn
  | .jpv0 nnn => formatA 0xB nnn
  | .rnd x kk => formatRI 0xC x kk
  | .drw x y n => formatRR 0xD x y n
  | .skp x => formatRI 0xE x 0x9E
  | .sknp x => formatRI 0xE x 0xA1
  | .rddt x => formatRI 0xF x 0x07
  | .wkey x => formatRI 0xF x 0x0A
  | .wrdt x => formatRI 0xF x 0x15
  | .wrst x => formatRI 0xF x 0x18
  | .addix x => formatRI 0xF x 0x1E
  | .font x => formatRI 0xF x 0x29
  | .bcd x => formatRI 0xF x 0x33
  | .stm x => formatRI 0xF x 0x55
  | .ldm x => formatRI 0xF x 0x65

end Sys2Proof
end

