-- ==== Sys2Proof/Config.lean ====
section
/-! DEFINITION. The free values of the model: what the host or the implementation chooses and the spec
leaves open. None has a body, so a theorem about them holds for every choice.

The sizes of rule R5 are constants of the hardware and stand as numerals where they are used; the
parameters FONT_BASE and FONT, to which rules R33 and R56 give default values, are
`Machine.fontBase` and `Machine.fontTable` in Machine/Memory.lean. -/

namespace Sys2Proof

/-- FREE VALUE (log entry 1). The key vector the host presents with step number `n` where the state's
list of inputs names none (R35: `keys` enters each step from outside). Bit `k` is key `k` (R217). -/
opaque Config.freeKeys : Nat → BitVec 16

/-- FREE VALUE (log entry 1). The random byte presented with step number `n` where the state's list of
inputs names none (R35, D19: any value 0 to 255, no relation between different steps). -/
opaque Config.freeRnd : Nat → Byte

/-- FREE VALUE (log entry 2). The parameter KEY_PICK of rules R6 and R174, before the limit that its
result is a pressed key is put on it (`Machine.keyPick` does that). -/
opaque Config.keyChoice : BitVec 16 → Fin 16

end Sys2Proof
end

