-- ==== Sys2Proof/Machine/Memory.lean ====
section
/-! DEFINITION. Memory: the 4096 bytes at addresses 0x000 to 0xFFF (10_state.md rule R32), as a list of
address and byte pairs in one canonical form; and what reset puts there (R33, R34, 20_memory.md R56).

The list holds the bytes that differ from the contents reset gives an empty program. Every operation here
moves single bytes and checks no bound: the bounds of rule R55 are checked by the instruction before it
moves a byte (`Machine.checkTop` in Ops.lean). -/

namespace Sys2Proof.Machine

/-- Address and byte pairs, addresses strictly rising (`Memory.wf`). -/
abbrev Memory := List Host.Cell

/-- `FONT_BASE` at the default the spec takes, 0x050 (R6, D1; log entry 3). -/
def fontBase : Nat := 0x050

/-- The glyphs 0 to 7 of the default `FONT` of rule R33, five bytes each (D2; log entry 4). -/
def glyphs0to7 : List (List Byte) :=
  [[0xF0, 0x90, 0x90, 0x90, 0xF0], [0x20, 0x60, 0x20, 0x20, 0x70],
   [0xF0, 0x10, 0xF0, 0x80, 0xF0], [0xF0, 0x10, 0xF0, 0x10, 0xF0],
   [0x90, 0x90, 0xF0, 0x10, 0x10], [0xF0, 0x80, 0xF0, 0x10, 0xF0],
   [0xF0, 0x80, 0xF0, 0x90, 0xF0], [0xF0, 0x10, 0x20, 0x40, 0x40]]

/-- The glyphs 8 to F of the default `FONT` of rule R33 (D2; log entry 4). -/
def glyphs8toF : List (List Byte) :=
  [[0xF0, 0x90, 0xF0, 0x90, 0xF0], [0xF0, 0x90, 0xF0, 0x10, 0xF0],
   [0xF0, 0x90, 0xF0, 0x90, 0x90], [0xE0, 0x90, 0xE0, 0x90, 0xE0],
   [0xF0, 0x80, 0x80, 0x80, 0xF0], [0xE0, 0x90, 0x90, 0x90, 0xE0],
   [0xF0, 0x80, 0xF0, 0x80, 0xF0], [0xF0, 0x80, 0xF0, 0x80, 0x80]]

/-- `FONT`, the 80 bytes of the font table in memory order (R33). -/
def fontTable : List Byte := (glyphs0to7 ++ glyphs8toF).flatten

/-- What an address the list does not name reads as: the contents reset gives it, the font table at
`FONT_BASE` and 0 everywhere else (R34, D3; log entry 5). -/
def initialByte (a : Nat) : Byte :=
  if a < fontBase then 0 else (fontTable[a - fontBase]?).getD 0

/-- The byte the list names at an address. -/
def Memory.lookup : Memory → Nat → Option Byte
  | [], _ => none
  | c :: m, a => if c.1 = a then some c.2 else Memory.lookup m a

/-- `Mem[a]` (R8). -/
def Memory.read (m : Memory) (a : Nat) : Byte := (Memory.lookup m a).getD (initialByte a)

/-- Put a cell in front of a list, unless it says what the address reads as without it. -/
def Memory.put (a : Nat) (b : Byte) (m : Memory) : Memory :=
  if b = initialByte a then m else (a, b) :: m

/-- `Mem[a] <- b` (R8), keeping the canonical form. -/
def Memory.write : Memory → Nat → Byte → Memory
  | [], a, b => Memory.put a b []
  | c :: m, a, b =>
    if a < c.1 then Memory.put a b (c :: m)
    else if a = c.1 then Memory.put a b m
    else c :: Memory.write m a b

/-- Write a list of bytes at consecutive addresses upward from `a` (R140). -/
def Memory.writeBytes : Memory → Nat → List Byte → Memory
  | m, _, [] => m
  | m, a, b :: bs => Memory.writeBytes (Memory.write m a b) (a + 1) bs

/-- The `n` bytes at `a` to `a + n - 1`, lowest address first (R8 `MemRead`, R140). -/
def Memory.readBytes (m : Memory) : Nat → Nat → List Byte
  | _, 0 => []
  | a, n + 1 => Memory.read m a :: Memory.readBytes m (a + 1) n

/-- The canonical form: addresses strictly rising and inside 0x000 to 0xFFF, and no cell that says what its
address reads as without it. Equal memories are then equal lists. -/
abbrev Memory.wf (m : Memory) : Prop :=
  m.Pairwise (fun c d => c.1 < d.1) ∧ ∀ c ∈ m, c.1 ≤ 0xFFF ∧ c.2 ≠ initialByte c.1

end Sys2Proof.Machine
end

