-- ==== Sys2Proof/Machine/State.lean ====
section
/-! DEFINITION. The state of the machine, the reasons a step can stop, and the state after reset
(10_state.md rules R20 to R36, 60_exceptions.md rule R200). -/

namespace Sys2Proof.Machine

/-- The framebuffer: 32 rows of 64 one-bit cells, row 0 first (R31). Cell `FB[px, py]` is bit `px` of row
`py` (log entry 11). -/
abbrev Framebuffer := Vector (BitVec 64) 32

/-- What the host presents with one step (R35): the key vector, bit `k` for key `k` (R217), and the random
byte that RND consumes. -/
structure StepInput where
  keys : BitVec 16
  rnd  : Byte
deriving DecidableEq, Repr

/-- The architectural state `S`: exactly the components of rule R20, and nothing else. -/
structure ArchState where
  /-- `V[0..15]`; `VF` is register 15 (R21, R22). -/
  v : Vector Byte 16
  /-- `PC`; while an instruction executes, its address plus 2 (R24). -/
  pc : Word
  /-- `I`, the index register (R26). -/
  i : Word
  /-- `STACK`, the newest return address first; `SP` is its length (R27; log entry 6). -/
  stack : List Word
  /-- `DT`, the delay timer (R29). -/
  dt : Byte
  /-- `ST`, the sound timer (R29). -/
  st : Byte
  /-- `KEYS`, bit `k` true while key `k` is pressed (R30; log entry 12). -/
  keys : BitVec 16
  /-- `FB` (R31). -/
  fb : Framebuffer
  /-- `Mem` (R32). -/
  mem : Memory
deriving DecidableEq, Repr

/-- What the interface `step : State → Outcome` carries from step to step: the architectural state, and beside
it the arguments of the steps to come and the diagnostic output of the last one, which are not architectural
state (R35, R207, D27) and for which the interface has no other place. -/
structure State extends ArchState where
  /-- MODEL'S OWN (log entry 1): the inputs the host presents with the next steps, first step first, as far
  as they are fixed. Where the list is empty the inputs are free values. -/
  inputs : List StepInput
  /-- MODEL'S OWN (log entry 1): the number of completed steps, the argument of the free inputs. -/
  stepNo : Nat
  /-- MODEL'S OWN (log entry 8): the diagnostic bit `unknown` of the last completed step (R70, R207). -/
  unknown : Bool
deriving DecidableEq, Repr

/-- The faults of rule R200, each with the `info` it records. All are SAFE: the spec itself ends the step
there (R206), and the host's `fault` outcome gives no state to reason about. -/
inductive Fault where
  /-- Code 1, raised by the fetch of any step when `PC + 1 > 0xFFF`; records `PC` (R201). Safe. -/
  | fetchOutOfBounds (pc : Word)
  /-- Code 2, raised by RET with an empty stack (R202). Safe. -/
  | stackUnderflow
  /-- Code 3, raised by CALL with 16 entries on the stack (R203). Safe. -/
  | stackOverflow
  /-- Code 4, raised by DRW, BCD, STM, LDM when their last address is above 0xFFF; records that address
  (R204). Safe. -/
  | memoryOutOfBounds (last : Nat)
  /-- Code 5, raised by SKP and SKNP when `V[x] > 15`; records `V[x]` (R205). Safe. -/
  | keyIndexOutOfRange (key : Byte)
  /-- Code 6, raised by `reset(rom)` only, never by a step, when the image is longer than 3584 bytes;
  records its length (R232). Safe. -/
  | loadError (length : Nat)
deriving DecidableEq, Repr

/-- Reasons for having no meaning. The interface asks for the type; no step of this model answers with
one, since every instruction has its meaning. -/
inductive Refusal where
  /-- An instruction whose arm of `exec` gives it no meaning. Raised by no arm of this model. Safe. -/
  | notModelled (mnemonic : String)
deriving DecidableEq, Repr

/-- The state after `reset` of an empty program image (R34, R230, R231): the font table in its place, as
`initialByte` has it, and every other value zero, false or empty, but `PC` = 0x200. How a program comes to
memory: `load` in Ops.lean (log entry 9). -/
def State.reset : State where
  v := Vector.replicate 16 0
  pc := 0x200
  i := 0
  stack := []
  dt := 0
  st := 0
  keys := 0
  fb := Vector.replicate 32 0
  mem := []
  inputs := []
  stepNo := 0
  unknown := false

end Sys2Proof.Machine
end

