-- ==== Sys2Proof/Machine/Ops.lean ====
section
/-! DEFINITION. The named operations over the state: register, timer, stack, program-counter, framebuffer and
memory updates; the bounds check; the phases of a step around the instruction (30_encoding.md rule R70); the
reset of a program image (70_reset_and_hazards.md rule R230); and what a fault reports (60_exceptions.md rule
R200). The architecture takes no exception inside the machine: a fault is the outcome of the step (R206,
R209), so there is no entry sequence and no return from one. -/

namespace Sys2Proof.Machine

/-- The three outcomes of this machine. -/
abbrev Result := Host.Outcome State Fault Refusal

/-! ### One update for each component of the state -/

/-- Read `V[r]` (R8). -/
def State.reg (s : State) (r : Reg) : Byte := s.v[r]

/-- `V[r] <- b` (R8). -/
def State.setReg (s : State) (r : Reg) (b : Byte) : State := { s with v := s.v.set r b }

/-- Replace the whole register file (the block load of R146). -/
def State.setV (s : State) (v : Vector Byte 16) : State := { s with v := v }

/-- `PC <- a`: the next fetch is from `a` (R8). -/
def State.setPc (s : State) (a : Word) : State := { s with pc := a }

/-- `I <- a` (R8). -/
def State.setI (s : State) (a : Word) : State := { s with i := a }

/-- Replace the call stack. -/
def State.setStack (s : State) (k : List Word) : State := { s with stack := k }

/-- `DT <- b` (R8). -/
def State.setDt (s : State) (b : Byte) : State := { s with dt := b }

/-- `ST <- b` (R8). -/
def State.setSt (s : State) (b : Byte) : State := { s with st := b }

/-- The host's write of `KEYS` (R30). -/
def State.setKeys (s : State) (k : BitVec 16) : State := { s with keys := k }

/-- Replace the framebuffer. -/
def State.setFb (s : State) (f : Framebuffer) : State := { s with fb := f }

/-- Replace the memory. -/
def State.setMem (s : State) (m : Memory) : State := { s with mem := m }

/-! ### Program counter and stack -/

/-- `PC + d` modulo 2^16 (R25). -/
def State.addPc (s : State) (d : Word) : State := s.setPc (s.pc + d)

/-- `PC <- PC + 2` when the condition holds: the skips of R104 to R107, R171, R172. -/
def State.skipIf (s : State) (c : Bool) : State := if c then s.addPc 2 else s

/-- `push(PC)` then `PC <- a`, with 16 entries a fault before anything changes (R103, R203). -/
def pushAndJump (a : Word) (s : State) : Result :=
  if 16 ≤ s.stack.length then .fault .stackOverflow
  else .next ((s.setStack (s.pc :: s.stack)).setPc a)

/-- `PC <- pop()`, with an empty stack a fault (R101, R202). -/
def popAndJump (s : State) : Result :=
  match s.stack with
  | [] => .fault .stackUnderflow
  | a :: rest => .next ((s.setStack rest).setPc a)

/-! ### Framebuffer -/

/-- `FB[px, py]` (R31). -/
def Framebuffer.cell (f : Framebuffer) (px : Fin 64) (py : Fin 32) : Bool := f[py].getLsbD px

/-- `FB[px, py] <- FB[px, py] XOR 1` (R162). -/
def Framebuffer.toggle (f : Framebuffer) (px : Fin 64) (py : Fin 32) : Framebuffer :=
  f.set py (f[py] ^^^ BitVec.twoPow 64 px)

/-- All 2048 cells 0 (R161). -/
def Framebuffer.clear : Framebuffer := Vector.replicate 32 0

/-- XOR one set sprite pixel onto the screen and note a cell that goes from 1 to 0: the body of the loop of
rule R162, on the pair of the framebuffer and `hit`. -/
def drawPixel (acc : Framebuffer × Bool) (p : Fin 64 × Fin 32) : Framebuffer × Bool :=
  (acc.1.toggle p.1 p.2, acc.2 || acc.1.cell p.1 p.2)

/-- The loop of rule R162 over the set pixels of a sprite: the new framebuffer and `hit`. -/
def drawPixels (f : Framebuffer) (ps : List (Fin 64 × Fin 32)) : Framebuffer × Bool :=
  ps.foldl drawPixel (f, false)

/-! ### Memory bounds -/

/-- The bounds check of rule R55 for an access to the `n` bytes from `a` up, over the integers and before any
effect: with `n ≥ 1` and the last address above 0xFFF the step faults with that address, else it goes on
to `t` (R204, R206). -/
def checkRange (a n : Nat) (t : State) : Result :=
  if 1 ≤ n ∧ a + n - 1 > 0xFFF then .fault (.memoryOutOfBounds (a + n - 1)) else .next t

/-! ### The inputs of a step (R35) -/

/-- The key vector presented with the next step: the first listed input's, else a free value
(log entry 1). -/
def State.presentedKeys (s : State) : BitVec 16 :=
  match s.inputs with
  | p :: _ => p.keys
  | [] => Config.freeKeys s.stepNo

/-- The random byte presented with the step: the first listed input's, else a free value (log entry 1). -/
def State.rnd (s : State) : Byte :=
  match s.inputs with
  | p :: _ => p.rnd
  | [] => Config.freeRnd s.stepNo

/-- The lowest-numbered pressed key at or above `k` among the `fuel` keys from `k` up, 0 if there is none. -/
def lowestKeyFrom (p : BitVec 16) : Nat → Nat → Reg
  | _, 0 => 0
  | k, fuel + 1 => if p.getLsbD k then Fin.ofNat 16 k else lowestKeyFrom p (k + 1) fuel

/-- The lowest-numbered pressed key. -/
def lowestKey (p : BitVec 16) : Reg := lowestKeyFrom p 0 16

/-- KEY_PICK (R6, R174, D10): of a non-empty set of pressed keys, a member. With one key down it is that key;
with several it is a free choice among them (log entry 2). -/
def keyPick (p : BitVec 16) : Reg :=
  if p = BitVec.twoPow 16 (lowestKey p) then lowestKey p
  else if p.getLsbD (Config.keyChoice p) then Config.keyChoice p
  else lowestKey p

/-! ### The phases of a step around the instruction (R70) -/

/-- `KEYS <- keys` at the start of the step (R70, R215). -/
def State.latchKeys (s : State) : State := s.setKeys s.presentedKeys

/-- Phase 1: the big-endian word at `PC`, or the fault of rule R201 before any byte is read (R50, R52). -/
def State.fetch (s : State) : Except Fault Word :=
  if s.pc.toNat + 1 > 0xFFF then .error (.fetchOutOfBounds s.pc)
  else .ok (wordOfBytes (s.mem.read s.pc.toNat) (s.mem.read (s.pc.toNat + 1)))

/-- `PC <- (PC + 2) mod 2^16` on every fetch (R24, R70). -/
def State.advancePc (s : State) : State := s.addPc 2

/-- Decrement by one while nonzero, floor at 0 (R212). -/
def decTimer (b : Byte) : Byte := if b = 0 then 0 else b - 1

/-- Phases 3 and 4: the timer tick of every step that does not fault (R212). -/
def State.tick (s : State) : State := { s with dt := decTimer s.dt, st := decTimer s.st }

/-- The step's inputs are used up: the next step has the next ones. -/
def State.nextInput (s : State) : State := { s with inputs := s.inputs.tail, stepNo := s.stepNo + 1 }

/-- The diagnostic output of the step (R77, R207). -/
def State.report (s : State) (u : Bool) : State := { s with unknown := u }

/-- The end of a step that does not fault: the tick, and the step's inputs and diagnostic output. -/
def State.endStep (s : State) (u : Bool) : State := (s.tick.nextInput).report u

/-- The end of a step whose instruction answered `r`: a fault ends it as it is (R206). -/
def finishStep : Result → Result
  | .next t => .next (t.endStep false)
  | .fault f => .fault f
  | .refused r => .refused r

/-! ### reset(rom) (R230 to R233) -/

/-- The host's `reset(rom)`. An image over 3584 bytes is a load error and changes nothing (R232); else every
piece of state takes its reset value and the image is copied to 0x200 upward (R230). The inputs the host is
going to present are the host's and stay (log entry 10). -/
def load (rom : List Byte) (s : State) : Result :=
  if romWellFormed rom then
    .next { State.reset with
      mem := State.reset.mem.writeBytes 0x200 rom, inputs := s.inputs, stepNo := s.stepNo }
  else .fault (.loadError rom.length)

/-! ### What the host sees -/

/-- The code a fault reports (R200, D21). -/
def Fault.code : Fault → Nat
  | .fetchOutOfBounds _ => 1
  | .stackUnderflow => 2
  | .stackOverflow => 3
  | .memoryOutOfBounds _ => 4
  | .keyIndexOutOfRange _ => 5
  | .loadError _ => 6

/-- The `info` a fault records beside its code (R200). -/
def Fault.info : Fault → Option Nat
  | .fetchOutOfBounds pc => some pc.toNat
  | .stackUnderflow => none
  | .stackOverflow => none
  | .memoryOutOfBounds last => some last
  | .keyIndexOutOfRange key => some key.toNat
  | .loadError n => some n

/-- The framebuffer as the 2048-bit view of rule R217, cell `FB[px, py]` at bit `py * 64 + px` (D12). -/
def Framebuffer.port (f : Framebuffer) : BitVec 2048 :=
  BitVec.ofFnLE fun k : Fin 2048 => f.cell (Fin.ofNat 64 k.val) (Fin.ofNat 32 (k.val / 64))

/-- The read-only views the host has between steps: `FB`, `ST` and `DT` (R216, R217). -/
structure HostView where
  fb : BitVec 2048
  st : Byte
  dt : Byte
deriving DecidableEq, Repr

/-- What the host reads of a state between steps (R217). -/
def State.hostView (s : State) : HostView := ⟨s.fb.port, s.st, s.dt⟩

end Sys2Proof.Machine
end

