-- ==== Sys2Proof/Machine/Flags.lean ====
section
/-! DEFINITION. The flag computations of the six instructions that write `VF` as a flag (10_state.md rules
R22, R23; 41_load_alu.md rule R120), and the 8-bit results that go with them. -/

namespace Sys2Proof.Machine

/-- A flag value, 1 or 0 (R22). -/
def flagByte (c : Bool) : Byte := if c then 1 else 0

/-- `VF <- flag` (R22); register 15. -/
def State.setVF (s : State) (c : Bool) : State := s.setReg 15 (flagByte c)

/-- The order of rule R23: the result to `V[x]`, then the flag to `VF`, last. -/
def State.setRegThenVF (s : State) (x : Reg) (b : Byte) (c : Bool) : State := (s.setReg x b).setVF c

/-- `(a + b) mod 256` (R120). -/
def sumByte (a b : Byte) : Byte := BitVec.ofNat 8 (a.toNat + b.toNat)

/-- Carry: the unsigned sum exceeds 255 (R127). -/
def carryOut (a b : Byte) : Bool := decide (a.toNat + b.toNat > 255)

/-- `(a - b) mod 256` (R120). -/
def diffByte (a b : Byte) : Byte := BitVec.ofInt 8 (a.toNat - b.toNat)

/-- No borrow: minuend at least the subtrahend (R128, R130). -/
def noBorrow (a b : Byte) : Bool := decide (b.toNat ≤ a.toNat)

/-- `a >> 1`, bit 7 of the result 0 (R129). -/
def shiftRightByte (a : Byte) : Byte := a >>> 1

/-- The bit a right shift by one shifts out: bit 0 (R129, D13). -/
def rightShiftFlag (a : Byte) : Bool := a.getLsbD 0

/-- `(a << 1) mod 256`, bit 0 of the result 0 (R131). -/
def shiftLeftByte (a : Byte) : Byte := a <<< 1

/-- The bit a left shift by one shifts out: bit 7 (R131). -/
def leftShiftFlag (a : Byte) : Bool := a.getLsbD 7

end Sys2Proof.Machine
end

