-- ==== Sys2Proof/Machine/Operands.lean ====
section
/-! DEFINITION. The operand forms beside the plain register and immediate byte: the zero-extended address, the
blocks of memory through `I` and of registers V0 to Vx, decimal digits, sprite pixels, the key a register
numbers (30_encoding.md rule R74, 42_index_memory.md rule R140, 43_display.md rule R160). -/

namespace Sys2Proof.Machine

/-- `zext_16(nnn)` (R74). -/
def addrOperand (nnn : BitVec 12) : Word := nnn.zeroExtend 16

/-- The effective address `I + k`, over the integers (R140). -/
def State.ea (s : State) (k : Nat) : Nat := s.i.toNat + k

/-- The registers V0 to Vx, in order (R145). -/
def State.regBlock (s : State) (x : Reg) : List Byte := s.v.toList.take (x.val + 1)

/-- The register file with V0 to Vx loaded from the bytes at `I` up and the others as they were (R146). -/
def State.loadedRegs (s : State) (x : Reg) : Vector Byte 16 :=
  Vector.ofFn fun r : Reg => if r ≤ x then s.mem.read (s.ea r.val) else s.reg r

/-- The three decimal digits of a byte, hundreds first (R144). -/
def bcdDigits (b : Byte) : List Byte :=
  [BitVec.ofNat 8 (b.toNat / 100), BitVec.ofNat 8 (b.toNat / 10 % 10), BitVec.ofNat 8 (b.toNat % 10)]

/-- The `n` rows of a sprite, the bytes at `I` up (R162). -/
def State.spriteRows (s : State) (n : BitVec 4) : List Byte := s.mem.readBytes (s.ea 0) n.toNat

/-- The screen positions of the set bits of one sprite row: bit `7 - c` at column `(vx + c) mod 64`
(R160, R162). -/
def rowPixels (vx : Nat) (py : Fin 32) (b : Byte) : List (Fin 64 × Fin 32) :=
  ((List.range 8).filter fun c => b.getLsbD (7 - c)).map fun c => (Fin.ofNat 64 (vx + c), py)

/-- The screen positions of the set bits of a sprite whose next row goes to row `vy mod 32`, in the order of
the loops of rule R162. -/
def spritePixels (vx : Nat) : Nat → List Byte → List (Fin 64 × Fin 32)
  | _, [] => []
  | vy, b :: bs => rowPixels vx (Fin.ofNat 32 vy) b ++ spritePixels vx (vy + 1) bs

/-- `KEYS[V[x]]` for the instruction that goes on with it, or the fault of rule R205 for a value above 15. -/
def withKey (x : Reg) (s : State) (go : Bool → State) : Result :=
  if (s.reg x).toNat > 15 then .fault (.keyIndexOutOfRange (s.reg x))
  else .next (go (s.keys.getLsbD (s.reg x).toNat))

end Sys2Proof.Machine
end

