-- ==== Sys2Proof/Machine/ControlFlow.lean ====
section
/-! DEFINITION. The control-flow instructions (40_control_flow.md rules R100 to R108). `PC` is the advanced
program counter, the address of the instruction plus 2 (R24). -/

namespace Sys2Proof.Machine

/-- 00EE RET (R101). -/
def execRet (s : State) : Result := popAndJump s

/-- 1NNN JP (R102). -/
def execJp (nnn : BitVec 12) (s : State) : Result := .next (s.setPc (addrOperand nnn))

/-- 2NNN CALL (R103). -/
def execCall (nnn : BitVec 12) (s : State) : Result := pushAndJump (addrOperand nnn) s

/-- 3XKK SEI (R104). -/
def execSei (x : Reg) (kk : Byte) (s : State) : Result := .next (s.skipIf (s.reg x == kk))

/-- 4XKK SNEI (R105). -/
def execSnei (x : Reg) (kk : Byte) (s : State) : Result := .next (s.skipIf (s.reg x != kk))

/-- 5XY0 SER (R106). -/
def execSer (x y : Reg) (s : State) : Result := .next (s.skipIf (s.reg x == s.reg y))

/-- 9XY0 SNER (R107). -/
def execSner (x y : Reg) (s : State) : Result := .next (s.skipIf (s.reg x != s.reg y))

/-- BNNN JPV0 (R108): `V[0] + zext_16(nnn)` modulo 2^16, not masked to 12 bits (D28). -/
def execJpv0 (nnn : BitVec 12) (s : State) : Result :=
  .next (s.setPc (BitVec.ofNat 16 ((s.reg 0).toNat + nnn.toNat)))

end Sys2Proof.Machine
end

