-- ==== Sys2Proof/Machine/Display.lean ====
section
/-! DEFINITION. The display instructions, the only writers of the framebuffer (43_display.md rules R160 to
R163). -/

namespace Sys2Proof.Machine

/-- 00E0 CLS (R161): `VF` is not touched. -/
def execCls (s : State) : Result := .next (s.setFb Framebuffer.clear)

/-- The framebuffer and `hit` after drawing the `n`-row sprite at `I` with its corner at (`V[x]`, `V[y]`),
each pixel wrapped modulo 64 and 32 (R162, D11). -/
def State.drawn (s : State) (x y : Reg) (n : BitVec 4) : Framebuffer × Bool :=
  drawPixels s.fb (spritePixels (s.reg x).toNat (s.reg y).toNat (s.spriteRows n))

/-- DXYN DRW (R162): `VF <- hit`, last and always; `n = 0` reads nothing and cannot fault. -/
def execDrw (x y : Reg) (n : BitVec 4) (s : State) : Result :=
  checkRange (s.ea 0) n.toNat ((s.setFb (s.drawn x y n).1).setVF (s.drawn x y n).2)

end Sys2Proof.Machine
end

