-- ==== Sys2Proof/Machine/IndexMemory.lean ====
section
/-! DEFINITION. The index register and memory instructions (42_index_memory.md rules R140 to R146). The whole
address range is checked before a byte moves (R55). -/

namespace Sys2Proof.Machine

/-- ANNN LDIX (R141). -/
def execLdix (nnn : BitVec 12) (s : State) : Result := .next (s.setI (addrOperand nnn))

/-- FX1E ADDIX (R142): modulo 2^16, no flag. -/
def execAddix (x : Reg) (s : State) : Result :=
  .next (s.setI (BitVec.ofNat 16 (s.i.toNat + (s.reg x).toNat)))

/-- FX29 FONT (R143): the whole byte `V[x]`, no mask. -/
def execFont (x : Reg) (s : State) : Result :=
  .next (s.setI (BitVec.ofNat 16 (fontBase + 5 * (s.reg x).toNat)))

/-- FX33 BCD (R144). -/
def execBcd (x : Reg) (s : State) : Result :=
  checkRange (s.ea 0) 3 (s.setMem (s.mem.writeBytes (s.ea 0) (bcdDigits (s.reg x))))

/-- FX55 STM (R145): `I` unchanged. -/
def execStm (x : Reg) (s : State) : Result :=
  checkRange (s.ea 0) (x.val + 1) (s.setMem (s.mem.writeBytes (s.ea 0) (s.regBlock x)))

/-- FX65 LDM (R146): `I` unchanged. -/
def execLdm (x : Reg) (s : State) : Result :=
  checkRange (s.ea 0) (x.val + 1) (s.setV (s.loadedRegs x))

end Sys2Proof.Machine
end

