-- ==== Sys2Proof/Machine/KeysTimers.lean ====
section
/-! DEFINITION. The key and timer instructions (44_keys_timers.md rules R170 to R176). The keys tested are the
vector presented for this step (R170, R215). -/

namespace Sys2Proof.Machine

/-- EX9E SKP (R171). -/
def execSkp (x : Reg) (s : State) : Result := withKey x s fun down => s.skipIf down

/-- EXA1 SKNP (R172). -/
def execSknp (x : Reg) (s : State) : Result := withKey x s fun down => s.skipIf (!down)

/-- FX07 RDDT (R173): `DT` before this step's tick. -/
def execRddt (x : Reg) (s : State) : Result := .next (s.setReg x s.dt)

/-- FX0A WKEY (R174): with no key down `PC` goes back to this instruction; else a pressed key's number. -/
def execWkey (x : Reg) (s : State) : Result :=
  .next (if s.keys = 0 then s.setPc (s.pc - 2) else s.setReg x (BitVec.ofNat 8 (keyPick s.keys).val))

/-- FX15 WRDT (R175): the tick of the same step follows. -/
def execWrdt (x : Reg) (s : State) : Result := .next (s.setDt (s.reg x))

/-- FX18 WRST (R176): the tick of the same step follows. -/
def execWrst (x : Reg) (s : State) : Result := .next (s.setSt (s.reg x))

end Sys2Proof.Machine
end

