-- ==== Sys2Proof/Machine/LoadAlu.lean ====
section
/-! DEFINITION. Register load, arithmetic and logic (41_load_alu.md rules R120 to R133). None of these can
fault; the flag writers read their operands first and write `VF` last (R23). -/

namespace Sys2Proof.Machine

/-- 6XKK LDI (R121). -/
def execLdi (x : Reg) (kk : Byte) (s : State) : Result := .next (s.setReg x kk)

/-- 7XKK ADDI (R122): no flag. -/
def execAddi (x : Reg) (kk : Byte) (s : State) : Result := .next (s.setReg x (sumByte (s.reg x) kk))

/-- 8XY0 MOV (R123). -/
def execMov (x y : Reg) (s : State) : Result := .next (s.setReg x (s.reg y))

/-- 8XY1 OR (R124): `VF` is not touched. -/
def execOr (x y : Reg) (s : State) : Result := .next (s.setReg x (s.reg x ||| s.reg y))

/-- 8XY2 AND (R125): `VF` is not touched. -/
def execAnd (x y : Reg) (s : State) : Result := .next (s.setReg x (s.reg x &&& s.reg y))

/-- 8XY3 XOR (R126): `VF` is not touched. -/
def execXor (x y : Reg) (s : State) : Result := .next (s.setReg x (s.reg x ^^^ s.reg y))

/-- 8XY4 ADD (R127): carry to `VF`. -/
def execAdd (x y : Reg) (s : State) : Result :=
  .next (s.setRegThenVF x (sumByte (s.reg x) (s.reg y)) (carryOut (s.reg x) (s.reg y)))

/-- 8XY5 SUB (R128): `V[x] - V[y]`, no-borrow to `VF`. -/
def execSub (x y : Reg) (s : State) : Result :=
  .next (s.setRegThenVF x (diffByte (s.reg x) (s.reg y)) (noBorrow (s.reg x) (s.reg y)))

/-- 8XY6 SHR (R129): `V[x]` in place, `y` ignored, bit 0 to `VF`. -/
def execShr (x _y : Reg) (s : State) : Result :=
  .next (s.setRegThenVF x (shiftRightByte (s.reg x)) (rightShiftFlag (s.reg x)))

/-- 8XY7 SUBN (R130): `V[y] - V[x]`, no-borrow to `VF`. -/
def execSubn (x y : Reg) (s : State) : Result :=
  .next (s.setRegThenVF x (diffByte (s.reg y) (s.reg x)) (noBorrow (s.reg y) (s.reg x)))

/-- 8XYE SHL (R131): `V[x]` in place, `y` ignored, bit 7 to `VF`. -/
def execShl (x _y : Reg) (s : State) : Result :=
  .next (s.setRegThenVF x (shiftLeftByte (s.reg x)) (leftShiftFlag (s.reg x)))

/-- CXKK RND (R132): the step's random byte AND `kk` (log entry 1). -/
def execRnd (x : Reg) (kk : Byte) (s : State) : Result := .next (s.setReg x (s.rnd &&& kk))

end Sys2Proof.Machine
end

