-- ==== Sys2Proof/Machine/Step.lean ====
section
/-! DEFINITION. One step of the machine (30_encoding.md rule R70), and an instruction placed where the next
step fetches it. -/

namespace Sys2Proof.Machine

/-- Phases 2 to 4 for a fetched word, `PC` already advanced: the instruction and the tick, or for an Unknown
word the tick alone and the diagnostic bit (R77). -/
def runWord (w : Word) (s : State) : Host.Outcome State Fault Refusal :=
  match decode w with
  | .ok i => finishStep (exec i s)
  | .error _ => .next (s.endStep true)

/-- One step (R70): the keys are presented, one word is fetched and `PC` advanced, the word is executed, the
timers tick. -/
def step (s : State) : Host.Outcome State Fault Refusal :=
  match s.latchKeys.fetch with
  | .ok w => runWord w s.latchKeys.advancePc
  | .error f => .fault f

/-- `s` with the instruction whose bits are `w` stored at `PC`, high byte first (R50), where the next step
fetches it; nothing else changes. At a `PC` that no fetch can use nothing is stored. -/
def State.withFetchWord (s : State) (nbits w : Nat) : State :=
  if s.pc.toNat + 1 > 0xFFF then s
  else s.setMem (s.mem.writeBytes s.pc.toNat [highByte (tableWord nbits w), lowByte (tableWord nbits w)])

end Sys2Proof.Machine
end

