-- ==== Sys2Proof/Safety.lean ====
section
/-! DEFINITION. The terms claims are stated in: the invariant of reachable states, what a safe step and run
are, the parked state of rule R240, the step as a function of the architectural state (R36, R70), and which
instructions write which piece of state (the "written by" column of 10_state.md rule R20). -/

namespace Sys2Proof.Machine

/-- What every reachable state satisfies: memory in canonical form within the 4096 bytes (R32), at most 16
stack entries (R27), each between 0x002 and 0x1000 (R101), and `PC` at most 0x10FE (R25). -/
structure State.Inv (s : State) : Prop where
  mem_wf : s.mem.wf
  stack_depth : s.stack.length ≤ 16
  stack_entries : ∀ a ∈ s.stack, 2 ≤ a.toNat ∧ a.toNat ≤ 0x1000
  pc_bound : s.pc.toNat ≤ 0x10FE

/-- A step is safe when it completes: no fault and no refusal (R200). -/
def SafeStep (s : State) : Prop := ∃ t, step s = .next t

/-- A run of `k` steps is safe when every step completes (R210: a fault ends the run). -/
def SafeRun (k : Nat) (s : State) : Prop := ∃ t, Sys2Proof.core.run k s = .next t

/-- The two bytes at `PC` as one big-endian word (R50); what the next step fetches if `PC + 1 ≤ 0xFFF`. -/
def State.wordAtPc (s : State) : Word := wordOfBytes (s.mem.read s.pc.toNat) (s.mem.read (s.pc.toNat + 1))

/-- Parked (R240): the word at `PC`, which can be fetched, is a jump to `PC` itself. -/
def State.Parked (s : State) : Prop :=
  s.pc.toNat + 1 ≤ 0xFFF ∧ ∃ nnn : BitVec 12, decode s.wordAtPc = .ok (.jp nnn) ∧ nnn.toNat = s.pc.toNat

/-- The set `T` of rule R163, the cells under a set bit of the sprite DRW draws: bit `7 - c` of row `r` at column
`(V[x] + c) mod 64`, row `(V[y] + r) mod 32` (R160, R162). -/
def State.Covered (s : State) (x y : Reg) (n : BitVec 4) (px : Fin 64) (py : Fin 32) : Prop :=
  ∃ r < n.toNat, ∃ c < 8, (s.mem.read (s.i.toNat + r)).getLsbD (7 - c) = true ∧
    px.val = ((s.reg x).toNat + c) % 64 ∧ py.val = ((s.reg y).toNat + r) % 32

/-- The state phase 2 of a step starts from: the keys presented, `PC` advanced by 2 (R70). -/
def State.ready (s : State) : State := s.latchKeys.advancePc

/-- The outcome of a step as rule R70 has it: the new architectural state and the diagnostic bit `unknown`
beside it, or a fault (R200). -/
def observed : Result → Host.Outcome (ArchState × Bool) Fault Refusal
  | .next t => .next (t.toArchState, t.unknown)
  | .fault f => .fault f
  | .refused r => .refused r

/-- `Step(S, keys, rnd)` of rule R70: one step of the architectural state `S` with the keys and the random byte
the host presents. The counter and the old diagnostic bit it starts from are arbitrary (R36, R207). -/
def archStep (a : ArchState) (keys : BitVec 16) (rnd : Byte) : Host.Outcome (ArchState × Bool) Fault Refusal :=
  observed (step { toArchState := a, inputs := [⟨keys, rnd⟩], stepNo := 0, unknown := false })

end Sys2Proof.Machine

namespace Sys2Proof

/-- The six instructions that write `VF` as a flag, on every execution (R22). -/
def Instr.isFlagWriter : Instr → Bool
  | .add _ _ | .sub _ _ | .subn _ _ | .shr _ _ | .shl _ _ | .drw _ _ _ => true
  | _ => false

/-- The registers an instruction may write other than `VF` as a flag (R20): its `x` register, or V0 to Vx for
LDM; none for the others. -/
def Instr.mayWrite : Instr → Reg → Bool
  | .ldi x _, r | .addi x _, r | .mov x _, r | .or x _, r | .and x _, r | .xor x _, r
  | .add x _, r | .sub x _, r | .shr x _, r | .subn x _, r | .shl x _, r
  | .rnd x _, r | .rddt x, r | .wkey x, r => r == x
  | .ldm x, r => decide (r ≤ x)
  | _, _ => false

/-- The instructions that may write the advanced `PC` (R20, R24). -/
def Instr.writesPc : Instr → Bool
  | .ret | .jp _ | .call _ | .jpv0 _ | .sei _ _ | .snei _ _ | .ser _ _ | .sner _ _
  | .skp _ | .sknp _ | .wkey _ => true
  | _ => false

/-- The instructions that write `I` (R20). -/
def Instr.writesI : Instr → Bool
  | .ldix _ | .addix _ | .font _ => true
  | _ => false

/-- The instructions that write the call stack (R20). -/
def Instr.writesStack : Instr → Bool
  | .call _ | .ret => true
  | _ => false

/-- The instructions that write the framebuffer (R20). -/
def Instr.writesFb : Instr → Bool
  | .cls | .drw _ _ _ => true
  | _ => false

/-- The instructions that write memory (R20, R54). -/
def Instr.writesMem : Instr → Bool
  | .bcd _ | .stm _ => true
  | _ => false

/-- The instruction that writes `DT` (R20). -/
def Instr.writesDt : Instr → Bool
  | .wrdt _ => true
  | _ => false

/-- The instruction that writes `ST` (R20). -/
def Instr.writesSt : Instr → Bool
  | .wrst _ => true
  | _ => false

/-- The instructions that read `KEYS` (R20). -/
def Instr.readsKeys : Instr → Bool
  | .skp _ | .sknp _ | .wkey _ => true
  | _ => false

end Sys2Proof
end

