-- ==== Sys2Proof/Certificates/Slice0/Obligations.lean ====
section
/-! DEFINITION. The statements about the model. Each says in its docstring which rules of spec/ it formalises;
OBLIGATIONS.json lists them with their titles, tiers and quotations. -/

open Sys2Proof Sys2Proof.Machine

/-- State.reset has the reset values of R34 for an empty image (font: log entries 3, 4; zeros elsewhere: D3, log
entry 5) (R34, R33 (default FONT; log entry 4), R6 (FONT_BASE default; log entry 3), 92_eei_decisions.md D3 (log
entry 5)). The model's choices: FONT_BASE is log entry 3 (DESIGN CHOICE), the font bytes are log entry 4
(PRESUMED); that every other byte reads 0 is the spec's own decision D3 (log entry 5, DEDUCED), which R34 marks
in that row. -/
def Obligations.ResetLeavesSpecValues : Prop :=
  (∀ r, State.reset.reg r = 0) ∧ State.reset.pc = 0x200 ∧ State.reset.i = 0 ∧ State.reset.stack = [] ∧
  State.reset.dt = 0 ∧ State.reset.st = 0 ∧ (∀ k < 16, State.reset.keys.getLsbD k = false) ∧
  (∀ px py, State.reset.fb.cell px py = false) ∧ fontTable.length = 80 ∧
  (∀ k (h : k < fontTable.length), State.reset.mem.read (fontBase + k) = fontTable[k]) ∧
  (∀ a, a < fontBase ∨ fontBase + 80 ≤ a → State.reset.mem.read a = 0)

/-- reset(rom) of at most 3584 bytes resets every component and copies the image to 0x200 (font, kept inputs:
log entries 3, 4, 10) (R230, R34, R231, R33 (default FONT; log entry 4), R6 (FONT_BASE default; log entry 3),
log entry 5, log entry 10). The model's choices: keeping inputs and stepNo is log entry 10 (DESIGN CHOICE),
FONT_BASE is log entry 3 (DESIGN CHOICE), the font bytes are log entry 4 (PRESUMED); the zeros elsewhere are the
spec's decision D3 (log entry 5). -/
def Obligations.LoadPlacesTheProgram : Prop :=
  ∀ (rom : List Byte) (s : State), rom.length ≤ 3584 → ∃ t, load rom s = .next t ∧
    (∀ r, t.reg r = 0) ∧ t.pc = 0x200 ∧ t.i = 0 ∧ t.stack = [] ∧ t.dt = 0 ∧ t.st = 0 ∧
    (∀ k < 16, t.keys.getLsbD k = false) ∧ (∀ px py, t.fb.cell px py = false) ∧
    (∀ k (h : k < rom.length), t.mem.read (0x200 + k) = rom[k]) ∧
    (∀ k (h : k < fontTable.length), t.mem.read (fontBase + k) = fontTable[k]) ∧
    (∀ a, a < fontBase ∨ (fontBase + 80 ≤ a ∧ a < 0x200) ∨ 0x200 + rom.length ≤ a → t.mem.read a = 0) ∧
    t.mem.wf ∧ t.inputs = s.inputs ∧ t.stepNo = s.stepNo

/-- reset(rom) of more than 3584 bytes is a load error with the image's length, code 6 (R232, R200,
92_eei_decisions.md D21 (log entry 17)). The code 6 is the spec's decision D21 (log entry 17). -/
def Obligations.LoadOfTooLongImageFails : Prop :=
  ∀ (rom : List Byte) (s : State), 3584 < rom.length →
    ∃ f, load rom s = .fault f ∧ f = .loadError rom.length ∧ f.code = 6 ∧ f.info = some rom.length

/-- Decoding the word of an instruction gives that instruction back, for all 34 and all operands (R76, R73,
R71). -/
def Obligations.DecodeInvertsEncode : Prop :=
  ∀ i : Instr, decode (encode i) = .ok i

/-- A word that decodes is the word its instruction encodes to: each instruction has one word (R76, R73, R79).
-/
def Obligations.EncodeInvertsDecode : Prop :=
  ∀ (w : Word) (i : Instr), decode w = .ok i → encode i = w

/-- The decoder rejects exactly the words of rule R78's table, each by the name of its group (R78, R75, R77, log
entry 15). That every fixed digit is checked is the spec's decision D15 (log entry 15). -/
def Obligations.RejectedWordsAreTheUnknownWords : Prop :=
  ∀ (w : Word) (u : UnknownWord), decode w = .error u ↔
    match u with
    | .group0 => w.toNat / 0x1000 = 0x0 ∧ w.toNat ≠ 0x00E0 ∧ w.toNat ≠ 0x00EE
    | .group5 => w.toNat / 0x1000 = 0x5 ∧ w.toNat % 0x10 ≠ 0
    | .group8 => w.toNat / 0x1000 = 0x8 ∧ w.toNat % 0x10 ∈ [0x8, 0x9, 0xA, 0xB, 0xC, 0xD, 0xF]
    | .group9 => w.toNat / 0x1000 = 0x9 ∧ w.toNat % 0x10 ≠ 0
    | .groupE => w.toNat / 0x1000 = 0xE ∧ w.toNat % 0x100 ∉ [0x9E, 0xA1]
    | .groupF => w.toNat / 0x1000 = 0xF ∧
        w.toNat % 0x100 ∉ [0x07, 0x0A, 0x15, 0x18, 0x1E, 0x29, 0x33, 0x55, 0x65]

/-- Every word matches at most one row of the opcode map, and decodes to that row's instruction or not at all
(R76, R73, R75, log entry 15). That every fixed digit of a row is checked is the spec's decision D15 (log entry
15). -/
def Obligations.DecoderFollowsTheOpcodeMap : Prop :=
  ∀ w : Word, match decode w with
    | .ok i => ∃ r, rowsOf w = [r] ∧ r.mnemonic = i.mnemonic
    | .error _ => rowsOf w = []

/-- Words written out from the spec's encodings decode as the spec's decode vectors say (R71, R76,
95_test_vectors.md 2.1). -/
def Obligations.SpecWordsDecode : Prop :=
  decode 0x00E0 = .ok .cls ∧ decode 0x1ABC = .ok (.jp 0xABC) ∧ decode 0x3A7F = .ok (.sei 10 0x7F) ∧
  decode 0x8AB4 = .ok (.add 10 11) ∧ decode 0x8ABE = .ok (.shl 10 11) ∧ decode 0xC30F = .ok (.rnd 3 0x0F) ∧
  decode 0xD123 = .ok (.drw 1 2 3) ∧ decode 0xE29E = .ok (.skp 2) ∧ decode 0xF065 = .ok (.ldm 0) ∧
  decode 0x0123 = .error .group0 ∧ decode 0x8AB8 = .error .group8

/-- The fetched word is Mem[PC] * 256 + Mem[PC + 1], at any PC, odd or even, up to 0xFFE (R50, R52, R70, log
entry 14). That an odd PC is fetched from is the spec's decision D16 (log entry 14). -/
def Obligations.FetchIsBigEndian : Prop :=
  ∀ (s : State) (w : Word), s.fetch = .ok w ↔
    s.pc.toNat + 1 ≤ 0xFFF ∧
      w.toNat = (s.mem.read s.pc.toNat).toNat * 256 + (s.mem.read (s.pc.toNat + 1)).toNat

/-- A step whose word decodes runs exec of it between the PC advance and the tick (exec, inputs, unknown bit:
log entries 1, 8, 16) (R70, R24, R212, log entry 1, log entry 8, log entry 16, 92_eei_decisions.md D20, D25 (log
entry 17)). The model's choices: the cut into exec and step is log entry 16, the input list and the step counter
are log entry 1, the unknown bit as a field of State is log entry 8 (each DESIGN CHOICE); the tick after the
instruction is the spec's decision D25, the keys' place at the step's start D20 (log entry 17). -/
def Obligations.StepRunsTheDecodedInstruction : Prop :=
  ∀ (s : State) (i : Instr), s.pc.toNat + 1 ≤ 0xFFF → decode s.wordAtPc = .ok i →
    (∀ u, exec i { s with keys := s.presentedKeys, pc := s.pc + 2 } = .next u →
      step s = .next { u with
        dt := decTimer u.dt, st := decTimer u.st, inputs := u.inputs.tail, stepNo := u.stepNo + 1,
        unknown := false }) ∧
    (∀ f, exec i { s with keys := s.presentedKeys, pc := s.pc + 2 } = .fault f → step s = .fault f)

/-- A step raises FetchOutOfBounds(PC) when PC is 0xFFF or more, and no step with PC at most 0xFFE raises it
(R201). -/
def Obligations.FetchPastTheTopFaults : Prop :=
  ∀ s : State,
    (0xFFF ≤ s.pc.toNat → step s = .fault (.fetchOutOfBounds s.pc)) ∧
    (s.pc.toNat ≤ 0xFFE → ∀ a, step s ≠ .fault (.fetchOutOfBounds a))

/-- A step on an Unknown word completes: PC + 2, the tick, the unknown bit, the input used up, nothing else (log
entries 1, 8, 17) (R77, 90_conflicts.md C6, 92_eei_decisions.md D25 (log entry 17), 92_eei_decisions.md D27 (log
entry 8), log entry 1). Beside the document's no-op: the tick in such a step is C6 and decision D25 (log entry
17), the unknown bit is decision D27, held in a field of State by log entry 8, and inputs.tail and stepNo + 1
are log entry 1 (DESIGN CHOICE both). -/
def Obligations.UnknownWordIsANoOp : Prop :=
  ∀ (s : State) (u : UnknownWord), s.pc.toNat + 1 ≤ 0xFFF → decode s.wordAtPc = .error u →
    step s = .next { s with
      pc := s.pc + 2, keys := s.presentedKeys, dt := decTimer s.dt, st := decTimer s.st,
      inputs := s.inputs.tail, stepNo := s.stepNo + 1, unknown := true }

/-- Every completed step decrements each nonzero timer by one, after the instruction (D25, log entry 17) (R212,
R173, R175, R176, 90_conflicts.md C6, 92_eei_decisions.md D25 (log entry 17)). That the tick comes in every
completed step, Unknown words and waiting WKEY included, and after the instruction is the spec's own decision
D25 (C6; log entry 17, DEDUCED). -/
def Obligations.TimersTickInEveryCompletedStep : Prop :=
  ∀ s t : State, step s = .next t →
    (∀ x, decode s.wordAtPc = .ok (.wrdt x) → t.dt.toNat = (s.reg x).toNat - 1) ∧
    ((∀ x, decode s.wordAtPc ≠ .ok (.wrdt x)) → t.dt.toNat = s.dt.toNat - 1) ∧
    (∀ x, decode s.wordAtPc = .ok (.wrst x) → t.st.toNat = (s.reg x).toNat - 1) ∧
    ((∀ x, decode s.wordAtPc ≠ .ok (.wrst x)) → t.st.toNat = s.st.toNat - 1) ∧
    (∀ x, decode s.wordAtPc = .ok (.rddt x) → t.reg x = s.dt)

/-- A completed step has KEYS as the first listed input gives them and uses up that input (the list: log entry
1) (R35, R70, R215, log entry 1, 92_eei_decisions.md D20 (log entry 17)). The list of inputs and its being used
up are the model's choice (log entry 1, DESIGN CHOICE): the rules say only that the host presents keys with each
step. That they are sampled at its start is decision D20 (log entry 17). FreeInputsReachTheStep says what
happens with an empty list. -/
def Obligations.PresentedInputsReachTheStep : Prop :=
  ∀ (s t : State) (p : StepInput) (rest : List StepInput), s.inputs = p :: rest → step s = .next t →
    t.keys = p.keys ∧ t.inputs = rest

/-- An instruction other than SKP, SKNP and WKEY neither reads nor writes KEYS (R20, R30, R170). -/
def Obligations.KeysReachOnlyKeyInstructions : Prop :=
  ∀ (i : Instr) (s : State) (k : BitVec 16), i.readsKeys = false →
    exec i (s.setKeys k) = match exec i s with
      | .next t => .next (t.setKeys k)
      | .fault f => .fault f
      | .refused r => .refused r

/-- An instruction other than RND does not depend on the random byte (R35, R132, log entry 1). The list of
inputs and the step number are the model's (log entry 1, DESIGN CHOICE). -/
def Obligations.RandomByteReachesOnlyRnd : Prop :=
  ∀ (i : Instr) (s : State) (l : List StepInput) (n : Nat), (∀ x kk, i ≠ .rnd x kk) →
    exec i { s with inputs := l, stepNo := n } = match exec i s with
      | .next t => .next { t with inputs := l, stepNo := n }
      | .fault f => .fault f
      | .refused r => .refused r

/-- Each piece of state other than the registers is changed only by the instructions rule R20 lists for it (R20,
R72, R24, R30, log entry 1, log entry 8, 92_eei_decisions.md D30 (log entry 17)). The last three are the model's
own fields (log entries 1 and 8); the frame rule R72 is the spec's decision D30 (log entry 17). -/
def Obligations.EachComponentHasItsWriters : Prop :=
  ∀ (i : Instr) (s t : State), exec i s = .next t →
    (i.writesPc = false → t.pc = s.pc) ∧ (i.writesI = false → t.i = s.i) ∧
    (i.writesStack = false → t.stack = s.stack) ∧ (i.writesDt = false → t.dt = s.dt) ∧
    (i.writesSt = false → t.st = s.st) ∧ t.keys = s.keys ∧
    (i.writesFb = false → ∀ px py, t.fb.cell px py = s.fb.cell px py) ∧
    (i.writesMem = false → ∀ a, t.mem.read a = s.mem.read a) ∧
    t.inputs = s.inputs ∧ t.stepNo = s.stepNo ∧ t.unknown = s.unknown

/-- An instruction changes no register but its destination, and VF if it is one of the six flag writers (R72,
R20, R22, 92_eei_decisions.md D30 (log entry 17)). The frame rule R72 is the spec's decision D30 (log entry 17).
-/
def Obligations.OtherRegistersAreUnchanged : Prop :=
  ∀ (i : Instr) (s t : State) (r : Reg), exec i s = .next t → i.mayWrite r = false →
    (r ≠ 15 ∨ i.isFlagWriter = false) → t.reg r = s.reg r

/-- The six flag writers leave VF 0 or 1; all others leave it unchanged unless it is their destination (R22,
R23, R72, 92_eei_decisions.md D14, D30 (log entry 17)). That the flag wins where x is 15 is the spec's decision
D14, and the frame of the others is D30 (log entry 17). -/
def Obligations.SixInstructionsWriteVFAsAFlag : Prop :=
  ∀ (i : Instr) (s t : State), exec i s = .next t →
    (i.isFlagWriter = true → t.reg 15 = 0 ∨ t.reg 15 = 1) ∧
    (i.isFlagWriter = false → i.mayWrite 15 = false → t.reg 15 = s.reg 15)

/-- exec faults exactly under the conditions of R200's table, CALL at 16 entries or more (log entries 6, 17),
and never refuses (R200, R202, R203, R204, R205, R208, log entry 6, log entry 17 (D5, D6, D8, D9)). R200 and
R203 write SP = 16; that CALL faults with 16 or more is log entry 6 (DEDUCED), more being unreachable. The
faults of RET, CALL, BCD, LDM, DRW, SKP and SKNP are the spec's decisions D5, D6, D8, D9 (log entry 17). -/
def Obligations.InstructionsFaultExactlyAsListed : Prop :=
  (∀ (i : Instr) (s : State) (f : Fault), exec i s = .fault f ↔
    (i = .ret ∧ s.stack = [] ∧ f = .stackUnderflow) ∨
    (∃ nnn, i = .call nnn ∧ 16 ≤ s.stack.length ∧ f = .stackOverflow) ∨
    (∃ x y n, i = .drw x y n ∧ 1 ≤ n.toNat ∧ 0xFFF < s.i.toNat + n.toNat - 1 ∧
      f = .memoryOutOfBounds (s.i.toNat + n.toNat - 1)) ∨
    (∃ x, i = .bcd x ∧ 0xFFF < s.i.toNat + 2 ∧ f = .memoryOutOfBounds (s.i.toNat + 2)) ∨
    (∃ x : Reg, (i = .stm x ∨ i = .ldm x) ∧ 0xFFF < s.i.toNat + x.val ∧
      f = .memoryOutOfBounds (s.i.toNat + x.val)) ∨
    (∃ x, (i = .skp x ∨ i = .sknp x) ∧ 15 < (s.reg x).toNat ∧ f = .keyIndexOutOfRange (s.reg x))) ∧
  (∀ (i : Instr) (s : State) (r : Refusal), exec i s ≠ .refused r)

/-- RET pops the newest stack entry into PC; with an empty stack it faults (D5, log entry 17) (R101,
92_eei_decisions.md D5 (log entry 17)). The fault on an empty stack is the spec's own decision D5 (log entry
17): the document calls the case architecturally undefined and its table says failure. -/
def Obligations.RetPopsThePC : Prop :=
  ∀ s : State,
    (s.stack = [] → exec .ret s = .fault .stackUnderflow) ∧
    (∀ a rest, s.stack = a :: rest → exec .ret s = .next { s with pc := a, stack := rest })

/-- JP sets PC to nnn; JPV0 sets it to V0 + nnn, not masked (D28, log entry 14) (R102, R108, 92_eei_decisions.md
D28 (log entry 14)). That the sum of JPV0 is not masked to 12 bits is the spec's own decision D28 (log entry
14). -/
def Obligations.JumpsGoToTheirTargets : Prop :=
  ∀ (nnn : BitVec 12) (s : State),
    (∃ t, exec (.jp nnn) s = .next t ∧ t.pc.toNat = nnn.toNat ∧ t = { s with pc := t.pc }) ∧
    (∃ t, exec (.jpv0 nnn) s = .next t ∧ t.pc.toNat = (s.reg 0).toNat + nnn.toNat ∧ t = { s with pc := t.pc })

/-- CALL pushes the advanced PC and jumps to nnn; with 16 entries it faults (D6, log entry 17) (R103, R24,
92_eei_decisions.md D6 (log entry 17)). The fault with 16 entries is the spec's own decision D6 (log entry 17):
the document is silent on a seventeenth push; that the pushed value is the advanced PC is derived in R103 from
R24. -/
def Obligations.CallPushesTheReturnAddress : Prop :=
  ∀ (nnn : BitVec 12) (s : State),
    (s.stack.length = 16 → exec (.call nnn) s = .fault .stackOverflow) ∧
    (s.stack.length < 16 → ∃ t, exec (.call nnn) s = .next t ∧ t.pc.toNat = nnn.toNat ∧
      t = { s with pc := t.pc, stack := s.pc :: s.stack })

/-- A CALL whose target holds a RET comes back in two steps to the address of the CALL plus 2 (R101, R103,
90_conflicts.md C8). -/
def Obligations.CallThenRetReturnsAfterTheCall : Prop :=
  ∀ (s : State) (nnn : BitVec 12), s.pc.toNat + 1 ≤ 0xFFF → decode s.wordAtPc = .ok (.call nnn) →
    nnn.toNat + 1 ≤ 0xFFF → s.mem.read nnn.toNat = 0x00 → s.mem.read (nnn.toNat + 1) = 0xEE →
    s.stack.length < 16 →
    ∃ t u, step s = .next t ∧ step t = .next u ∧ u.pc = s.pc + 2 ∧ u.stack = s.stack

/-- SEI skips iff V[x] = kk and SNEI iff V[x] differs from kk, by adding 2 to PC modulo 2^16 (R104, R105). -/
def Obligations.ImmediateSkips : Prop :=
  ∀ (x : Reg) (kk : Byte) (s : State),
    ((s.reg x).toNat = kk.toNat → ∃ t, exec (.sei x kk) s = .next t ∧
      t.pc.toNat = (s.pc.toNat + 2) % 65536 ∧ t = { s with pc := t.pc }) ∧
    ((s.reg x).toNat ≠ kk.toNat → exec (.sei x kk) s = .next s) ∧
    ((s.reg x).toNat ≠ kk.toNat → ∃ t, exec (.snei x kk) s = .next t ∧
      t.pc.toNat = (s.pc.toNat + 2) % 65536 ∧ t = { s with pc := t.pc }) ∧
    ((s.reg x).toNat = kk.toNat → exec (.snei x kk) s = .next s)

/-- SER skips iff V[x] = V[y] and SNER iff they differ, by adding 2 to PC modulo 2^16 (R106, R107). -/
def Obligations.RegisterSkips : Prop :=
  ∀ (x y : Reg) (s : State),
    ((s.reg x).toNat = (s.reg y).toNat → ∃ t, exec (.ser x y) s = .next t ∧
      t.pc.toNat = (s.pc.toNat + 2) % 65536 ∧ t = { s with pc := t.pc }) ∧
    ((s.reg x).toNat ≠ (s.reg y).toNat → exec (.ser x y) s = .next s) ∧
    ((s.reg x).toNat ≠ (s.reg y).toNat → ∃ t, exec (.sner x y) s = .next t ∧
      t.pc.toNat = (s.pc.toNat + 2) % 65536 ∧ t = { s with pc := t.pc }) ∧
    ((s.reg x).toNat = (s.reg y).toNat → exec (.sner x y) s = .next s)

/-- LDI loads kk, ADDI adds kk modulo 256 without a flag, MOV copies V[y] (R121, R122, R123). -/
def Obligations.LoadsAndImmediateAdd : Prop :=
  ∀ (x y : Reg) (kk : Byte) (s : State),
    (∃ t, exec (.ldi x kk) s = .next t ∧ t = { s with v := t.v } ∧ t.reg x = kk ∧
      ∀ r, r ≠ x → t.reg r = s.reg r) ∧
    (∃ t, exec (.addi x kk) s = .next t ∧ t = { s with v := t.v } ∧
      (t.reg x).toNat = ((s.reg x).toNat + kk.toNat) % 256 ∧ ∀ r, r ≠ x → t.reg r = s.reg r) ∧
    (∃ t, exec (.mov x y) s = .next t ∧ t = { s with v := t.v } ∧ t.reg x = s.reg y ∧
      ∀ r, r ≠ x → t.reg r = s.reg r)

/-- OR, AND and XOR act bit by bit on V[x] and V[y] and touch no other register, VF included (R124, R125, R126).
-/
def Obligations.BitwiseOperations : Prop :=
  ∀ (x y : Reg) (s : State),
    (∃ t, exec (.or x y) s = .next t ∧ t = { s with v := t.v } ∧
      (∀ k < 8, (t.reg x).getLsbD k = ((s.reg x).getLsbD k || (s.reg y).getLsbD k)) ∧
      ∀ r, r ≠ x → t.reg r = s.reg r) ∧
    (∃ t, exec (.and x y) s = .next t ∧ t = { s with v := t.v } ∧
      (∀ k < 8, (t.reg x).getLsbD k = ((s.reg x).getLsbD k && (s.reg y).getLsbD k)) ∧
      ∀ r, r ≠ x → t.reg r = s.reg r) ∧
    (∃ t, exec (.xor x y) s = .next t ∧ t = { s with v := t.v } ∧
      (∀ k < 8, (t.reg x).getLsbD k = ((s.reg x).getLsbD k != (s.reg y).getLsbD k)) ∧
      ∀ r, r ≠ x → t.reg r = s.reg r)

/-- ADD writes the sum modulo 256 to V[x] and then the carry to VF (order: D14, log entry 17) (R127, R23,
92_eei_decisions.md D14 (log entry 17)). That VF is written last, so that it holds the carry where x is 15, is
the spec's own decision D14 (C3; log entry 17). -/
def Obligations.AddWithCarryOut : Prop :=
  ∀ (x y : Reg) (s : State), ∃ t, exec (.add x y) s = .next t ∧ t = { s with v := t.v } ∧
    (t.reg 15).toNat = (if (s.reg x).toNat + (s.reg y).toNat > 255 then 1 else 0) ∧
    (x ≠ 15 → (t.reg x).toNat = ((s.reg x).toNat + (s.reg y).toNat) % 256) ∧
    ∀ r, r ≠ x → r ≠ 15 → t.reg r = s.reg r

/-- SUB and SUBN write the difference modulo 256 to V[x] and then the no-borrow flag to VF (order: D14, log
entry 17) (R128, R130, R23, 92_eei_decisions.md D14 (log entry 17)). That VF is written last, so that it holds
the flag where x is 15, is the spec's own decision D14 (C3; log entry 17). -/
def Obligations.SubtractionsWithNoBorrow : Prop :=
  ∀ (x y : Reg) (s : State),
    (∃ t, exec (.sub x y) s = .next t ∧ t = { s with v := t.v } ∧
      (t.reg 15).toNat = (if (s.reg x).toNat ≥ (s.reg y).toNat then 1 else 0) ∧
      (x ≠ 15 → ((t.reg x).toNat : Int) = ((s.reg x).toNat - (s.reg y).toNat : Int) % 256) ∧
      ∀ r, r ≠ x → r ≠ 15 → t.reg r = s.reg r) ∧
    (∃ t, exec (.subn x y) s = .next t ∧ t = { s with v := t.v } ∧
      (t.reg 15).toNat = (if (s.reg y).toNat ≥ (s.reg x).toNat then 1 else 0) ∧
      (x ≠ 15 → ((t.reg x).toNat : Int) = ((s.reg y).toNat - (s.reg x).toNat : Int) % 256) ∧
      ∀ r, r ≠ x → r ≠ 15 → t.reg r = s.reg r)

/-- SHR and SHL shift V[x] by one in place, ignore V[y], and then write the bit shifted out to VF (D13, D14, log
entry 17) (R129, R131, R23, 92_eei_decisions.md D13, D14 (log entry 17)). That the flag of SHR is bit 0 is the
spec's own decision D13 (C4; the repository reads another bit), and that VF is written last is D14 (C3), both
log entry 17 (DEDUCED). -/
def Obligations.ShiftsByOne : Prop :=
  ∀ (x y : Reg) (s : State),
    (∃ t, exec (.shr x y) s = .next t ∧ t = { s with v := t.v } ∧
      (t.reg 15).toNat = (s.reg x).toNat % 2 ∧ (x ≠ 15 → (t.reg x).toNat = (s.reg x).toNat / 2) ∧
      ∀ r, r ≠ x → r ≠ 15 → t.reg r = s.reg r) ∧
    (∃ t, exec (.shl x y) s = .next t ∧ t = { s with v := t.v } ∧
      (t.reg 15).toNat = (s.reg x).toNat / 128 ∧ (x ≠ 15 → (t.reg x).toNat = 2 * (s.reg x).toNat % 256) ∧
      ∀ r, r ≠ x → r ≠ 15 → t.reg r = s.reg r)

/-- RND writes the step's random byte AND kk to V[x] (the listed input's byte: log entry 1) (R132, R35, log
entry 1). The list of inputs is the model's choice (log entry 1, DESIGN CHOICE); that the byte is any value is
decision D19. -/
def Obligations.RndMasksTheRandomByte : Prop :=
  ∀ (x : Reg) (kk : Byte) (s : State), ∃ t, exec (.rnd x kk) s = .next t ∧ t = { s with v := t.v } ∧
    (∀ k < 8, kk.getLsbD k = false → (t.reg x).getLsbD k = false) ∧
    (∀ p rest, s.inputs = p :: rest → ∀ k < 8, kk.getLsbD k = true → (t.reg x).getLsbD k = p.rnd.getLsbD k) ∧
    ∀ r, r ≠ x → t.reg r = s.reg r

/-- LDIX, ADDIX (unmasked: D17, log entry 17) and FONT (FONT_BASE: log entry 3) write I and nothing else (R141,
R142, R143, 92_eei_decisions.md D17 (log entry 17), log entry 3). That the sum of ADDIX is modulo 2^16 and not
masked is the spec's own decision D17 (log entry 17); the value of FONT_BASE is log entry 3 (DESIGN CHOICE). -/
def Obligations.IndexRegisterWrites : Prop :=
  ∀ (nnn : BitVec 12) (x : Reg) (s : State),
    (∃ t, exec (.ldix nnn) s = .next t ∧ t.i.toNat = nnn.toNat ∧ t = { s with i := t.i }) ∧
    (∃ t, exec (.addix x) s = .next t ∧ t.i.toNat = (s.i.toNat + (s.reg x).toNat) % 65536 ∧
      t = { s with i := t.i }) ∧
    (∃ t, exec (.font x) s = .next t ∧ t.i.toNat = fontBase + 5 * (s.reg x).toNat ∧ t = { s with i := t.i })

/-- BCD stores the hundreds, tens and ones of V[x] at I, I + 1, I + 2, or faults (D8, log entry 17) (R144, R55,
92_eei_decisions.md D8 (log entry 17)). The bounds fault of BCD is the spec's own decision D8 (log entry 17):
the document's sentence on bounds does not name FX33 (R55). -/
def Obligations.BcdStoresThreeDigits : Prop :=
  ∀ (x : Reg) (s : State),
    (0xFFF < s.i.toNat + 2 → exec (.bcd x) s = .fault (.memoryOutOfBounds (s.i.toNat + 2))) ∧
    (s.i.toNat + 2 ≤ 0xFFF → s.mem.wf → ∃ t, exec (.bcd x) s = .next t ∧ t = { s with mem := t.mem } ∧
      (t.mem.read s.i.toNat).toNat = (s.reg x).toNat / 100 ∧
      (t.mem.read (s.i.toNat + 1)).toNat = (s.reg x).toNat / 10 % 10 ∧
      (t.mem.read (s.i.toNat + 2)).toNat = (s.reg x).toNat % 10 ∧
      ∀ a, a < s.i.toNat ∨ s.i.toNat + 2 < a → t.mem.read a = s.mem.read a)

/-- STM stores V0 to Vx at I to I + x and leaves I alone, or faults (R145). -/
def Obligations.StmStoresTheBlock : Prop :=
  ∀ (x : Reg) (s : State),
    (0xFFF < s.i.toNat + x.val → exec (.stm x) s = .fault (.memoryOutOfBounds (s.i.toNat + x.val))) ∧
    (s.i.toNat + x.val ≤ 0xFFF → s.mem.wf → ∃ t, exec (.stm x) s = .next t ∧ t = { s with mem := t.mem } ∧
      (∀ r : Reg, r ≤ x → t.mem.read (s.i.toNat + r.val) = s.reg r) ∧
      ∀ a, a < s.i.toNat ∨ s.i.toNat + x.val < a → t.mem.read a = s.mem.read a)

/-- LDM loads V0 to Vx from I to I + x and leaves I and memory alone, or faults (D8, log entry 17) (R146, R55,
92_eei_decisions.md D8 (log entry 17)). The bounds fault of LDM is the spec's own decision D8 (log entry 17):
the document's sentence on bounds does not name FX65 (R55). -/
def Obligations.LdmLoadsTheBlock : Prop :=
  ∀ (x : Reg) (s : State),
    (0xFFF < s.i.toNat + x.val → exec (.ldm x) s = .fault (.memoryOutOfBounds (s.i.toNat + x.val))) ∧
    (s.i.toNat + x.val ≤ 0xFFF → ∃ t, exec (.ldm x) s = .next t ∧ t = { s with v := t.v } ∧
      (∀ r : Reg, r ≤ x → t.reg r = s.mem.read (s.i.toNat + r.val)) ∧
      ∀ r : Reg, x < r → t.reg r = s.reg r)

/-- STM Vx, then LDM Vx after any change of the registers, gives V0 to Vx back; I never changes (R145, R146). -/
def Obligations.StoreThenLoadRestoresTheRegisters : Prop :=
  ∀ (x : Reg) (s : State), s.i.toNat + x.val ≤ 0xFFF → s.mem.wf →
    ∃ t, exec (.stm x) s = .next t ∧ t.i = s.i ∧
      ∀ v : Vector Byte 16, ∃ u, exec (.ldm x) (t.setV v) = .next u ∧ u.i = s.i ∧
        ∀ r : Reg, r ≤ x → u.reg r = s.reg r

/-- A store is seen by the next fetch: bytes STM wrote are the word fetched from there (R62, R51, R59,
92_eei_decisions.md D18 (log entry 17)). R62 is the spec's decision D18 (log entry 17). -/
def Obligations.StoredBytesAreFetchedNext : Prop :=
  ∀ (s : State) (x : Reg) (k : Nat) (h : k + 1 < 16), s.mem.wf → s.pc.toNat + 1 ≤ 0xFFF →
    decode s.wordAtPc = .ok (.stm x) → s.i.toNat + x.val ≤ 0xFFF → k + 1 ≤ x.val →
    s.pc.toNat + 2 = s.i.toNat + k →
    ∃ t w, step s = .next t ∧ t.pc = s.pc + 2 ∧ t.fetch = .ok w ∧
      w.toNat = (s.reg ⟨k, Nat.lt_of_succ_lt h⟩).toNat * 256 + (s.reg ⟨k + 1, h⟩).toNat

/-- CLS turns all 2048 cells off and changes nothing else, VF included (R161). -/
def Obligations.ClsClearsEveryCell : Prop :=
  ∀ s : State, ∃ t, exec .cls s = .next t ∧ t = { s with fb := t.fb } ∧ ∀ px py, t.fb.cell px py = false

/-- DRW inverts exactly the cells under a set sprite bit, wrapped per pixel (D11, log entry 17), and VF tells a
collision (R162, R55, 92_eei_decisions.md D8, D11, D14 (log entry 17)). That every pixel wraps is the spec's own
decision D11, and the bounds check of the sprite read is D8 (both log entry 17); that VF is written last is D14
(log entry 17). -/
def Obligations.DrwXorsTheSprite : Prop :=
  ∀ (x y : Reg) (n : BitVec 4) (s : State),
    (1 ≤ n.toNat → 0xFFF < s.i.toNat + n.toNat - 1 →
      exec (.drw x y n) s = .fault (.memoryOutOfBounds (s.i.toNat + n.toNat - 1))) ∧
    (n.toNat = 0 ∨ s.i.toNat + n.toNat - 1 ≤ 0xFFF → ∃ t, exec (.drw x y n) s = .next t ∧
      t = { s with v := t.v, fb := t.fb } ∧
      (∀ px py, s.Covered x y n px py → t.fb.cell px py = !s.fb.cell px py) ∧
      (∀ px py, ¬ s.Covered x y n px py → t.fb.cell px py = s.fb.cell px py) ∧
      ((∃ px py, s.Covered x y n px py ∧ s.fb.cell px py = true) → t.reg 15 = 1) ∧
      ((¬ ∃ px py, s.Covered x y n px py ∧ s.fb.cell px py = true) → t.reg 15 = 0) ∧
      ∀ r, r ≠ 15 → t.reg r = s.reg r)

/-- The same DRW twice restores the framebuffer, with the two flags as rule R163 states them (R163, R162,
92_eei_decisions.md D11 (log entry 17)). R163 is derived in the spec from R162, and the covered cells rest on
the per-pixel wrap of decision D11 (log entry 17). -/
def Obligations.DrawingTwiceRestoresTheScreen : Prop :=
  ∀ (x y : Reg) (n : BitVec 4) (s t : State), x ≠ 15 → y ≠ 15 → exec (.drw x y n) s = .next t →
    ∃ u, exec (.drw x y n) t = .next u ∧ u.fb = s.fb ∧
      (t.reg 15 = 1 ↔ ∃ px py, s.Covered x y n px py ∧ s.fb.cell px py = true) ∧
      (u.reg 15 = 1 ↔ ∃ px py, s.Covered x y n px py ∧ s.fb.cell px py = false)

/-- SKP skips iff key V[x] is down and SKNP iff it is up; a value above 15 faults (D9, log entry 17) (R171,
R172, 92_eei_decisions.md D9 (log entry 17)). The fault above 15 is the spec's own decision D9 (log entry 17):
the document does not say what key such a value numbers. -/
def Obligations.KeySkips : Prop :=
  ∀ (x : Reg) (s : State),
    (15 < (s.reg x).toNat → exec (.skp x) s = .fault (.keyIndexOutOfRange (s.reg x)) ∧
      exec (.sknp x) s = .fault (.keyIndexOutOfRange (s.reg x))) ∧
    ((s.reg x).toNat ≤ 15 → s.keys.getLsbD (s.reg x).toNat = true →
      (∃ t, exec (.skp x) s = .next t ∧ t.pc.toNat = (s.pc.toNat + 2) % 65536 ∧ t = { s with pc := t.pc }) ∧
      exec (.sknp x) s = .next s) ∧
    ((s.reg x).toNat ≤ 15 → s.keys.getLsbD (s.reg x).toNat = false →
      exec (.skp x) s = .next s ∧
      (∃ t, exec (.sknp x) s = .next t ∧ t.pc.toNat = (s.pc.toNat + 2) % 65536 ∧ t = { s with pc := t.pc }))

/-- RDDT copies DT to V[x], WRDT and WRST copy V[x] to DT and ST, before the tick (R173, R175, R176). -/
def Obligations.TimerReadsAndWrites : Prop :=
  ∀ (x : Reg) (s : State),
    (∃ t, exec (.rddt x) s = .next t ∧ t = { s with v := t.v } ∧ t.reg x = s.dt ∧
      ∀ r, r ≠ x → t.reg r = s.reg r) ∧
    exec (.wrdt x) s = .next { s with dt := s.reg x } ∧
    exec (.wrst x) s = .next { s with st := s.reg x }

/-- WKEY takes PC back by 2 while no key is down, else writes the number of a pressed key to V[x] (R174, R170,
log entry 2 (D10)). KEY_PICK is decision D10. -/
def Obligations.WkeyWaitsOrDeliversAPressedKey : Prop :=
  ∀ (x : Reg) (s : State),
    ((∀ k < 16, s.keys.getLsbD k = false) → exec (.wkey x) s = .next { s with pc := s.pc - 2 }) ∧
    ((∃ k < 16, s.keys.getLsbD k = true) → ∃ t, exec (.wkey x) s = .next t ∧ t = { s with v := t.v } ∧
      (t.reg x).toNat < 16 ∧ s.keys.getLsbD (t.reg x).toNat = true ∧ ∀ r, r ≠ x → t.reg r = s.reg r)

/-- A waiting WKEY step leaves PC, the registers, memory and the screen, ticks the timers and fetches the same
word next (R174, R36, R212, 92_eei_decisions.md D25 (log entry 17)). That a waiting step ticks the timers is the
spec's decision D25 (log entry 17). -/
def Obligations.WaitingWkeyStepRepeats : Prop :=
  ∀ (s : State) (x : Reg), s.pc.toNat + 1 ≤ 0xFFF → decode s.wordAtPc = .ok (.wkey x) →
    s.presentedKeys = 0 →
    ∃ t, step s = .next t ∧ t.pc = s.pc ∧ t.v = s.v ∧ t.i = s.i ∧ t.stack = s.stack ∧ t.fb = s.fb ∧
      t.mem = s.mem ∧ t.dt = decTimer s.dt ∧ t.st = decTimer s.st ∧ t.wordAtPc = s.wordAtPc

/-- A parked state steps to itself but for the timers counting down, and is parked again (R240, R102, R212, log
entry 1, log entry 8, 92_eei_decisions.md D24, D25 (log entry 17)). The input list, step number and unknown bit
are the model's own fields (log entries 1 and 8); what parked means is the spec's decision D24 and the tick D25
(log entry 17). -/
def Obligations.ParkedStateStaysParked : Prop :=
  ∀ s : State, s.Parked → ∃ t, step s = .next t ∧ t.Parked ∧
    t = { s with keys := s.presentedKeys, dt := decTimer s.dt, st := decTimer s.st,
                 inputs := s.inputs.tail, stepNo := s.stepNo + 1, unknown := false }

/-- The state after reset satisfies the invariant (R34, R25, R27, 92_eei_decisions.md D6 (log entry 17), D28
(log entry 14)). The bounds of the invariant are the spec's: 16 entries is D6 (log entry 17), PC's bound rests
on D28 (log entry 14). -/
def Obligations.ResetSatisfiesTheInvariant : Prop :=
  State.reset.Inv

/-- Every state a successful reset(rom) leaves satisfies the invariant (R230, R25, R27, R32, 92_eei_decisions.md
D6 (log entry 17), D28 (log entry 14)). The bounds of the invariant are the spec's: 16 entries is D6 (log entry
17), PC's bound rests on D28 (log entry 14). -/
def Obligations.LoadSatisfiesTheInvariant : Prop :=
  ∀ (rom : List Byte) (s t : State), load rom s = .next t → t.Inv

/-- Every step keeps: memory canonical inside 0x000 to 0xFFF, at most 16 stack entries each 0x002 to 0x1000, PC
at most 0x10FE (R25, R27, R32, R101, R55, 92_eei_decisions.md D6, D8 (log entry 17), D28 (log entry 14)). That a
push past 16 entries faults is the spec's decision D6, the bounds check before a store D8 (log entry 17), and
that JPV0 reaches 0x10FE is D28 (log entry 14). -/
def Obligations.StepKeepsTheInvariant : Prop :=
  ∀ s t : State, s.Inv → step s = .next t → t.Inv

/-- The host's 2048-bit view shows cell (px, py) at bit py * 64 + px, and ST and DT as they are (R217, R31, log
entry 11 (D12)). The order of the cells in the view is decision D12 (log entry 11). -/
def Obligations.HostViewShowsTheCells : Prop :=
  ∀ (s : State) (px : Fin 64) (py : Fin 32),
    s.hostView.fb.getLsbD (py.val * 64 + px.val) = s.fb.cell px py ∧ s.hostView.st = s.st ∧
    s.hostView.dt = s.dt

/-- A step's outcome is a function of the architectural state and the presented keys and random byte alone (R36,
R20, R35, R70, 92_eei_decisions.md D27, log entry 1, log entry 2, log entry 8). The fields beside ArchState, and
KEY_PICK's depending on the pressed set alone, are the model's (log entries 1, 2, 8). -/
def Obligations.StepDependsOnTheArchitecturalState : Prop :=
  ∀ s : State, observed (step s) = archStep s.toArchState s.presentedKeys s.rnd

/-- With no input listed, a completed step has free keys and lists no input after (log entry 1) (R35, R70, R215,
log entry 1, 92_eei_decisions.md D20 (log entry 17)). The list, the counter and the free values are the model's
choice (log entry 1, DESIGN CHOICE). -/
def Obligations.FreeInputsReachTheStep : Prop :=
  ∀ s t : State, s.inputs = [] → step s = .next t →
    t.keys = Config.freeKeys s.stepNo ∧ t.inputs = [] ∧ t.stepNo = s.stepNo + 1
end

