-- ==== Sys2Proof/Laws/Decode.lean ====
section
/-! SUPPORT. The fields of an encoded word, the words the masks of rule R73 leave, and the bytes of a word. -/

namespace Sys2Proof

@[simp] theorem fieldOp_formatA (op : BitVec 4) (nnn : BitVec 12) : fieldOp (formatA op nnn) = op := by
  apply BitVec.eq_of_getLsbD_eq; intro k hk
  simp only [fieldOp, formatA, BitVec.getLsbD_extractLsb', BitVec.getLsbD_append]
  interval_cases k <;> simp

@[simp] theorem fieldNNN_formatA (op : BitVec 4) (nnn : BitVec 12) : fieldNNN (formatA op nnn) = nnn := by
  apply BitVec.eq_of_getLsbD_eq; intro k hk
  simp only [fieldNNN, formatA, BitVec.getLsbD_extractLsb', BitVec.getLsbD_append]
  interval_cases k <;> simp

@[simp] theorem fieldOp_formatRI (op : BitVec 4) (x : Reg) (kk : Byte) : fieldOp (formatRI op x kk) = op := by
  apply BitVec.eq_of_getLsbD_eq; intro k hk
  simp only [fieldOp, formatRI, BitVec.getLsbD_extractLsb', BitVec.getLsbD_append]
  interval_cases k <;> simp

@[simp] theorem fieldX_formatRI (op : BitVec 4) (x : Reg) (kk : Byte) : fieldX (formatRI op x kk) = x := by
  have : (formatRI op x kk).extractLsb' 8 4 = BitVec.ofFin x := by
    apply BitVec.eq_of_getLsbD_eq; intro k hk
    simp only [formatRI, BitVec.getLsbD_extractLsb', BitVec.getLsbD_append]
    interval_cases k <;> simp
  rw [fieldX, this]

@[simp] theorem fieldKK_formatRI (op : BitVec 4) (x : Reg) (kk : Byte) : fieldKK (formatRI op x kk) = kk := by
  apply BitVec.eq_of_getLsbD_eq; intro k hk
  simp only [fieldKK, formatRI, BitVec.getLsbD_extractLsb', BitVec.getLsbD_append]
  interval_cases k <;> simp

@[simp] theorem fieldOp_formatRR (op : BitVec 4) (x y : Reg) (n : BitVec 4) : fieldOp (formatRR op x y n) = op := by
  apply BitVec.eq_of_getLsbD_eq; intro k hk
  simp only [fieldOp, formatRR, BitVec.getLsbD_extractLsb', BitVec.getLsbD_append]
  interval_cases k <;> simp

@[simp] theorem fieldX_formatRR (op : BitVec 4) (x y : Reg) (n : BitVec 4) : fieldX (formatRR op x y n) = x := by
  have : (formatRR op x y n).extractLsb' 8 4 = BitVec.ofFin x := by
    apply BitVec.eq_of_getLsbD_eq; intro k hk
    simp only [formatRR, BitVec.getLsbD_extractLsb', BitVec.getLsbD_append]
    interval_cases k <;> simp
  rw [fieldX, this]

@[simp] theorem fieldY_formatRR (op : BitVec 4) (x y : Reg) (n : BitVec 4) : fieldY (formatRR op x y n) = y := by
  have : (formatRR op x y n).extractLsb' 4 4 = BitVec.ofFin y := by
    apply BitVec.eq_of_getLsbD_eq; intro k hk
    simp only [formatRR, BitVec.getLsbD_extractLsb', BitVec.getLsbD_append]
    interval_cases k <;> simp
  rw [fieldY, this]

@[simp] theorem fieldN_formatRR (op : BitVec 4) (x y : Reg) (n : BitVec 4) : fieldN (formatRR op x y n) = n := by
  apply BitVec.eq_of_getLsbD_eq; intro k hk
  simp only [fieldN, formatRR, BitVec.getLsbD_extractLsb', BitVec.getLsbD_append]
  interval_cases k <;> simp

/-- A word is its leading nibble and its address field (R71). -/
theorem formatA_fields (w : Word) : formatA (fieldOp w) (fieldNNN w) = w := by
  apply BitVec.eq_of_getLsbD_eq; intro k hk
  simp only [formatA, fieldOp, fieldNNN, BitVec.getLsbD_append, BitVec.getLsbD_extractLsb']
  interval_cases k <;> simp

/-- A word is its leading nibble, register and low byte (R71). -/
theorem formatRI_fields (w : Word) : formatRI (fieldOp w) (fieldX w) (fieldKK w) = w := by
  apply BitVec.eq_of_getLsbD_eq; intro k hk
  simp only [formatRI, fieldOp, fieldX, fieldKK, BitVec.ofFin_toFin, BitVec.getLsbD_append,
    BitVec.getLsbD_extractLsb']
  interval_cases k <;> simp

/-- A word is its four nibbles (R71). -/
theorem formatRR_fields (w : Word) : formatRR (fieldOp w) (fieldX w) (fieldY w) (fieldN w) = w := by
  apply BitVec.eq_of_getLsbD_eq; intro k hk
  simp only [formatRR, fieldOp, fieldX, fieldY, fieldN, BitVec.ofFin_toFin, BitVec.getLsbD_append,
    BitVec.getLsbD_extractLsb']
  interval_cases k <;> simp

/-- Format A under its mask: the leading nibble (R73). -/
theorem formatA_and (op : BitVec 4) (nnn : BitVec 12) : formatA op nnn &&& 0xF000 = formatA op 0 := by
  apply BitVec.eq_of_getLsbD_eq; intro k hk
  simp only [formatA, BitVec.getLsbD_and, BitVec.getLsbD_append]
  interval_cases k <;> simp

/-- Format RI under its mask (R73). -/
theorem formatRI_and (op : BitVec 4) (x : Reg) (kk : Byte) : formatRI op x kk &&& 0xF000 = formatRI op 0 0 := by
  apply BitVec.eq_of_getLsbD_eq; intro k hk
  simp only [formatRI, BitVec.getLsbD_and, BitVec.getLsbD_append]
  interval_cases k <;> simp

/-- Format R under its mask: the low byte is fixed (R73). -/
theorem formatR_and (op : BitVec 4) (x : Reg) (kk : Byte) : formatRI op x kk &&& 0xF0FF = formatRI op 0 kk := by
  apply BitVec.eq_of_getLsbD_eq; intro k hk
  simp only [formatRI, BitVec.getLsbD_and, BitVec.getLsbD_append]
  interval_cases k <;> simp

/-- Format RR under its mask: the last nibble is fixed (R73). -/
theorem formatRR_and (op : BitVec 4) (x y : Reg) (n : BitVec 4) :
    formatRR op x y n &&& 0xF00F = formatRR op 0 0 n := by
  apply BitVec.eq_of_getLsbD_eq; intro k hk
  simp only [formatRR, BitVec.getLsbD_and, BitVec.getLsbD_append]
  interval_cases k <;> simp

/-- Format RRN under its mask (R73). -/
theorem formatRRN_and (op : BitVec 4) (x y : Reg) (n : BitVec 4) :
    formatRR op x y n &&& 0xF000 = formatRR op 0 0 0 := by
  apply BitVec.eq_of_getLsbD_eq; intro k hk
  simp only [formatRR, BitVec.getLsbD_and, BitVec.getLsbD_append]
  interval_cases k <;> simp

/-- The two bytes of a word, read back in the order of the fetch, are the word (R50). -/
@[simp] theorem wordOfBytes_bytes (w : Word) : wordOfBytes (highByte w) (lowByte w) = w := by
  apply BitVec.eq_of_getLsbD_eq; intro k hk
  simp only [wordOfBytes, highByte, lowByte, BitVec.getLsbD_append, BitVec.getLsbD_extractLsb']
  interval_cases k <;> simp

/-- A fetched word as a number: the byte at the lower address is worth 256 (R50). -/
theorem wordOfBytes_toNat (hi lo : Byte) : (wordOfBytes hi lo).toNat = hi.toNat * 256 + lo.toNat := by
  have hl := lo.isLt
  simp only [wordOfBytes, BitVec.toNat_append, Nat.shiftLeft_eq]
  rw [Nat.mul_comm, ← Nat.two_pow_add_eq_or_of_lt hl]

end Sys2Proof
end

