-- ==== Sys2Proof/Laws/Flags.lean ====
section
/-! SUPPORT. The flag computations and 8-bit results as natural-number arithmetic, and as the bit-vector
operations they equal. -/

namespace Sys2Proof.Machine

@[simp] theorem flagByte_toNat (c : Bool) : (flagByte c).toNat = if c then 1 else 0 := by cases c <;> rfl

theorem sumByte_toNat (a b : Byte) : (sumByte a b).toNat = (a.toNat + b.toNat) % 256 := by
  simp [sumByte]

theorem sumByte_eq_add (a b : Byte) : sumByte a b = a + b := by
  apply BitVec.eq_of_toNat_eq
  simp [sumByte_toNat]

theorem diffByte_toNat (a b : Byte) : (diffByte a b).toNat = (a.toNat + 256 - b.toNat) % 256 := by
  have ha := a.isLt
  have hb := b.isLt
  simp only [diffByte, BitVec.toNat_ofInt]
  omega

theorem diffByte_eq_sub (a b : Byte) : diffByte a b = a - b := by
  apply BitVec.eq_of_toNat_eq
  have ha := a.isLt
  have hb := b.isLt
  rw [diffByte_toNat, BitVec.toNat_sub]
  omega

theorem carryOut_eq_true (a b : Byte) : carryOut a b = true ↔ a.toNat + b.toNat > 255 := by simp [carryOut]

theorem noBorrow_eq_true (a b : Byte) : noBorrow a b = true ↔ b.toNat ≤ a.toNat := by simp [noBorrow]

theorem shiftRightByte_toNat (a : Byte) : (shiftRightByte a).toNat = a.toNat / 2 := by
  simp [shiftRightByte, Nat.shiftRight_eq_div_pow]

theorem shiftLeftByte_toNat (a : Byte) : (shiftLeftByte a).toNat = a.toNat * 2 % 256 := by
  simp [shiftLeftByte, Nat.shiftLeft_eq]

theorem rightShiftFlag_eq_true (a : Byte) : rightShiftFlag a = true ↔ a.toNat % 2 = 1 := by
  simp [rightShiftFlag, BitVec.getLsbD, Nat.testBit_zero]

theorem leftShiftFlag_eq_true (a : Byte) : leftShiftFlag a = true ↔ 128 ≤ a.toNat := by
  have ha := a.isLt
  have : a.toNat / 128 < 2 := by omega
  simp only [leftShiftFlag, BitVec.getLsbD, Nat.testBit_eq_decide_div_mod_eq, decide_eq_true_eq]
  omega

end Sys2Proof.Machine
end

