-- ==== Sys2Proof/Laws/Framebuffer.lean ====
section
/-! SUPPORT. The framebuffer cell by cell: after one toggle, after clearing, and after drawing a list of
pixels. -/

namespace Sys2Proof.Machine

/-- Two framebuffers with the same cells are equal. -/
theorem Framebuffer.ext_cell {f g : Framebuffer} (h : ∀ px py, f.cell px py = g.cell px py) : f = g :=
  Vector.ext fun k hk => BitVec.eq_of_getLsbD_eq fun j hj => h ⟨j, hj⟩ ⟨k, hk⟩

/-- A toggle changes its own cell and no other. -/
theorem Framebuffer.cell_toggle (f : Framebuffer) (px qx : Fin 64) (py qy : Fin 32) :
    (f.toggle px py).cell qx qy = if qx = px ∧ qy = py then !f.cell qx qy else f.cell qx qy := by
  unfold Framebuffer.toggle Framebuffer.cell
  by_cases hy : qy = py
  · subst hy
    by_cases hx : qx = px
    · subst hx
      simp
    · have : ¬ qx.val = px.val := fun h => hx (Fin.ext h)
      simp [hx, this]
  · have : ¬ py.val = qy.val := fun h => hy (Fin.ext h.symm)
    simp [hy, this]

@[simp] theorem Framebuffer.cell_clear (px : Fin 64) (py : Fin 32) : Framebuffer.clear.cell px py = false := by
  simp [Framebuffer.clear, Framebuffer.cell]

/-- After drawing a list of pixels, each named once, a cell is inverted exactly if the list names it. -/
theorem drawPixel_foldl_cell (acc : Framebuffer × Bool) {ps : List (Fin 64 × Fin 32)} (hnd : ps.Nodup)
    (px : Fin 64) (py : Fin 32) :
    (ps.foldl drawPixel acc).1.cell px py = (acc.1.cell px py ^^ decide ((px, py) ∈ ps)) := by
  induction ps generalizing acc with
  | nil => simp
  | cons p ps ih =>
    obtain ⟨hp, hnd⟩ := List.nodup_cons.1 hnd
    rw [List.foldl_cons, ih _ hnd, drawPixel, Framebuffer.cell_toggle]
    by_cases he : (px, py) = p
    · subst he
      simp [hp]
    · have : ¬ (px = p.1 ∧ py = p.2) := fun h => he (Prod.ext h.1 h.2)
      simp [this, he]

/-- `hit` after drawing a list of pixels, each named once: set before, or some named cell was on. -/
theorem drawPixel_foldl_hit (acc : Framebuffer × Bool) {ps : List (Fin 64 × Fin 32)} (hnd : ps.Nodup) :
    (ps.foldl drawPixel acc).2 = (acc.2 || ps.any fun p => acc.1.cell p.1 p.2) := by
  induction ps generalizing acc with
  | nil => simp
  | cons p ps ih =>
    obtain ⟨hp, hnd⟩ := List.nodup_cons.1 hnd
    have hany : (ps.any fun q => (acc.1.toggle p.1 p.2).cell q.1 q.2) = ps.any fun q => acc.1.cell q.1 q.2 := by
      rw [Bool.eq_iff_iff, List.any_eq_true, List.any_eq_true]
      refine exists_congr fun q => and_congr_right fun hq => ?_
      have : ¬ (q.1 = p.1 ∧ q.2 = p.2) := fun h => hp (Prod.ext h.1 h.2 ▸ hq)
      rw [Framebuffer.cell_toggle, if_neg this]
    rw [List.foldl_cons, ih _ hnd, drawPixel, hany, List.any_cons, Bool.or_assoc]

/-- The drawn framebuffer, cell by cell. -/
theorem drawPixels_cell (f : Framebuffer) {ps : List (Fin 64 × Fin 32)} (hnd : ps.Nodup) (px : Fin 64) (py : Fin 32) :
    (drawPixels f ps).1.cell px py = (f.cell px py ^^ decide ((px, py) ∈ ps)) :=
  drawPixel_foldl_cell (f, false) hnd px py

/-- The collision flag: some drawn cell was on. -/
theorem drawPixels_hit (f : Framebuffer) {ps : List (Fin 64 × Fin 32)} (hnd : ps.Nodup) :
    (drawPixels f ps).2 = ps.any fun p => f.cell p.1 p.2 := by
  rw [drawPixels, drawPixel_foldl_hit _ hnd, Bool.false_or]

end Sys2Proof.Machine
end

