-- ==== Sys2Proof/Laws/Memory.lean ====
section
/-! SUPPORT. Memory: a read after a write, blocks of bytes, and the canonical form kept by every operation
(`Memory.wf`). -/

namespace Sys2Proof.Machine

@[simp] theorem Memory.read_nil (a : Nat) : Memory.read [] a = initialByte a := rfl

theorem Memory.read_cons (c : Host.Cell) (m : Memory) (a : Nat) :
    Memory.read (c :: m) a = if c.1 = a then c.2 else Memory.read m a := by
  unfold Memory.read
  rw [Memory.lookup]
  split <;> rfl

/-- An address the list does not name reads as its reset contents. -/
theorem Memory.read_of_absent {m : Memory} {a : Nat} (h : ∀ c ∈ m, c.1 ≠ a) : m.read a = initialByte a := by
  induction m with
  | nil => rfl
  | cons c m ih =>
    rw [Memory.read_cons, if_neg (h c (by simp)), ih fun d hd => h d (by simp [hd])]

theorem Memory.read_put (a b : Nat) (v : Byte) {m : Memory} (h : ∀ c ∈ m, c.1 ≠ a) :
    (Memory.put a v m).read b = if b = a then v else m.read b := by
  unfold Memory.put
  split
  · next hv =>
    split
    · next hb => rw [hb, Memory.read_of_absent h, hv]
    · rfl
  · rw [Memory.read_cons]
    simp only [eq_comm]

/-- A cell after the first of a sorted list has a larger address than the first. -/
theorem Memory.ne_of_sorted {c : Host.Cell} {m : Memory} {a : Nat}
    (hs : (c :: m).Pairwise fun c d => c.1 < d.1) (ha : a ≤ c.1) : ∀ d ∈ m, d.1 ≠ a := by
  intro d hd he
  have := List.rel_of_pairwise_cons hs hd
  omega

/-- A read after a write: the byte written at its address, every other address as before. -/
theorem Memory.read_write {m : Memory} (hs : m.Pairwise fun c d => c.1 < d.1) (a b : Nat) (v : Byte) :
    (m.write a v).read b = if b = a then v else m.read b := by
  induction m with
  | nil => exact Memory.read_put a b v (by simp)
  | cons c m ih =>
    rw [Memory.write]
    split
    · next hlt =>
      refine Memory.read_put a b v fun d hd => ?_
      rcases List.mem_cons.1 hd with rfl | hd
      · omega
      · exact Memory.ne_of_sorted hs hlt.le d hd
    · split
      · next heq =>
        rw [Memory.read_put a b v (Memory.ne_of_sorted hs heq.le), Memory.read_cons]
        split
        · rfl
        · rw [if_neg (by omega)]
      · next hne =>
        rw [Memory.read_cons, ih hs.of_cons, Memory.read_cons]
        split
        · rw [if_neg (by omega)]
        · rfl

theorem Memory.mem_put {a : Nat} {v : Byte} {m : Memory} {c : Host.Cell} (h : c ∈ Memory.put a v m) :
    (c = (a, v) ∧ v ≠ initialByte a) ∨ c ∈ m := by
  unfold Memory.put at h
  split at h
  · exact .inr h
  · next hv => exact (List.mem_cons.1 h).imp (fun hc => ⟨hc, hv⟩) id

/-- The cells after a write: the new one, if it says something, and old ones. -/
theorem Memory.mem_write {m : Memory} {a : Nat} {v : Byte} {c : Host.Cell} (h : c ∈ m.write a v) :
    (c = (a, v) ∧ v ≠ initialByte a) ∨ c ∈ m := by
  induction m with
  | nil => exact Memory.mem_put h
  | cons d m ih =>
    rw [Memory.write] at h
    split at h
    · exact Memory.mem_put h
    · split at h
      · exact (Memory.mem_put h).imp id fun hc => by simp [hc]
      · rcases List.mem_cons.1 h with rfl | hc
        · simp
        · exact (ih hc).imp id fun hc => by simp [hc]

theorem Memory.put_sorted {a : Nat} {v : Byte} {m : Memory} (hs : m.Pairwise fun c d => c.1 < d.1)
    (h : ∀ c ∈ m, a < c.1) : (Memory.put a v m).Pairwise fun c d => c.1 < d.1 := by
  unfold Memory.put
  split
  · exact hs
  · exact List.pairwise_cons.2 ⟨h, hs⟩

/-- A write keeps the addresses strictly rising. -/
theorem Memory.write_sorted {m : Memory} (hs : m.Pairwise fun c d => c.1 < d.1) (a : Nat) (v : Byte) :
    (m.write a v).Pairwise fun c d => c.1 < d.1 := by
  induction m with
  | nil => exact Memory.put_sorted .nil (by simp)
  | cons c m ih =>
    have hc := List.pairwise_cons.1 hs
    rw [Memory.write]
    split
    · next hlt =>
      refine Memory.put_sorted hs fun d hd => ?_
      rcases List.mem_cons.1 hd with rfl | hd
      · exact hlt
      · exact hlt.trans (hc.1 d hd)
    · split
      · next heq => exact Memory.put_sorted hc.2 fun d hd => by have := hc.1 d hd; omega
      · next hne =>
        refine List.pairwise_cons.2 ⟨fun d hd => ?_, ih hc.2⟩
        rcases Memory.mem_write hd with ⟨rfl, -⟩ | hd
        · show c.1 < a
          omega
        · exact hc.1 d hd

/-- Reset memory is in canonical form. -/
theorem Memory.wf_nil : Memory.wf [] := ⟨.nil, by simp⟩

/-- A write inside the address space keeps the canonical form. -/
theorem Memory.wf_write {m : Memory} (h : m.wf) {a : Nat} (ha : a ≤ 0xFFF) (v : Byte) : (m.write a v).wf :=
  ⟨Memory.write_sorted h.1 a v, fun c hc => by
    rcases Memory.mem_write hc with ⟨rfl, hv⟩ | hc
    · exact ⟨ha, hv⟩
    · exact h.2 c hc⟩

/-- Writing a block inside the address space keeps the canonical form. -/
theorem Memory.wf_writeBytes {m : Memory} (h : m.wf) {a : Nat} {bs : List Byte} (ha : a + bs.length ≤ 0x1000) :
    (m.writeBytes a bs).wf := by
  induction bs generalizing m a with
  | nil => exact h
  | cons b bs ih =>
    rw [List.length_cons] at ha
    exact ih (Memory.wf_write h (by omega) b) (by omega)

theorem Memory.writeBytes_sorted {m : Memory} (hs : m.Pairwise fun c d => c.1 < d.1) (a : Nat) (bs : List Byte) :
    (m.writeBytes a bs).Pairwise fun c d => c.1 < d.1 := by
  induction bs generalizing m a with
  | nil => exact hs
  | cons b bs ih => exact ih (Memory.write_sorted hs a b) _

/-- A read after a block write: the block's byte inside the block, as before outside it. -/
theorem Memory.read_writeBytes {m : Memory} (hs : m.Pairwise fun c d => c.1 < d.1) (a b : Nat) (bs : List Byte) :
    (m.writeBytes a bs).read b =
      if h : a ≤ b ∧ b - a < bs.length then bs[b - a]'h.2 else m.read b := by
  induction bs generalizing m a with
  | nil => simp [Memory.writeBytes]
  | cons v bs ih =>
    rw [Memory.writeBytes, ih (Memory.write_sorted hs a v), Memory.read_write hs]
    rcases Nat.lt_trichotomy b a with h | rfl | h
    · rw [dif_neg (by omega), if_neg (by omega), dif_neg (by omega)]
    · rw [dif_neg (by omega), if_pos rfl, dif_pos (by simp)]
      simp
    · obtain ⟨k, rfl⟩ : ∃ k, b = a + 1 + k := ⟨b - (a + 1), by omega⟩
      have hk : a + 1 + k - a = k + 1 := by omega
      by_cases hl : k < bs.length
      · rw [dif_pos (by omega), dif_pos (by simp; omega)]
        simp [hk]
      · rw [dif_neg (by omega), if_neg (by omega), dif_neg (by simp; omega)]

/-- Outside the block nothing changes. -/
theorem Memory.read_writeBytes_of_outside {m : Memory} (hs : m.Pairwise fun c d => c.1 < d.1) {a b : Nat}
    {bs : List Byte} (h : b < a ∨ a + bs.length ≤ b) : (m.writeBytes a bs).read b = m.read b := by
  rw [Memory.read_writeBytes hs, dif_neg (by omega)]

/-- Inside the block the read gives the block's byte. -/
theorem Memory.read_writeBytes_inside {m : Memory} (hs : m.Pairwise fun c d => c.1 < d.1) {a k : Nat}
    {bs : List Byte} (h : k < bs.length) : (m.writeBytes a bs).read (a + k) = bs[k] := by
  rw [Memory.read_writeBytes hs, dif_pos (by omega)]
  simp

@[simp] theorem Memory.length_readBytes (m : Memory) (a n : Nat) : (m.readBytes a n).length = n := by
  induction n generalizing a with
  | zero => rfl
  | succ n ih => simp [Memory.readBytes, ih]

@[simp] theorem Memory.getElem_readBytes (m : Memory) (a n k : Nat) (h : k < (m.readBytes a n).length) :
    (m.readBytes a n)[k] = m.read (a + k) := by
  induction n generalizing a k with
  | zero => simp at h
  | succ n ih =>
    cases k with
    | zero => rfl
    | succ k =>
      simp only [Memory.readBytes, List.getElem_cons_succ]
      rw [ih]
      congr 1
      omega

/-- Reading a block back gives the bytes written, if they are in canonical order before. -/
theorem Memory.readBytes_writeBytes {m : Memory} (hs : m.Pairwise fun c d => c.1 < d.1) (a : Nat) (bs : List Byte) :
    (m.writeBytes a bs).readBytes a bs.length = bs :=
  List.ext_getElem (by simp) fun k h1 h2 => by
    rw [Memory.getElem_readBytes, Memory.read_writeBytes_inside hs h2]

/-- Two canonical memories that read the same everywhere are equal: the form is unique. -/
theorem Memory.eq_of_read_eq {m n : Memory} (hm : m.wf) (hn : n.wf) (h : ∀ a, m.read a = n.read a) : m = n := by
  induction m generalizing n with
  | nil =>
    cases n with
    | nil => rfl
    | cons d n => have := h d.1; rw [Memory.read_cons, if_pos rfl] at this; exact absurd this.symm (hn.2 d (by simp)).2
  | cons c m ih =>
    have hcm := List.pairwise_cons.1 hm.1
    cases n with
    | nil => have := h c.1; rw [Memory.read_cons, if_pos rfl] at this; exact absurd this (hm.2 c (by simp)).2
    | cons d n =>
      have hdn := List.pairwise_cons.1 hn.1
      have hc := h c.1
      have hd := h d.1
      rw [Memory.read_cons, if_pos rfl] at hc
      rw [Memory.read_cons d n d.1, if_pos rfl] at hd
      have key : c.1 = d.1 := by
        rcases Nat.lt_trichotomy c.1 d.1 with hlt | heq | hlt
        · have : Memory.read (d :: n) c.1 = initialByte c.1 := Memory.read_of_absent fun e he => by
            rcases List.mem_cons.1 he with rfl | he
            · omega
            · have := hdn.1 e he; omega
          exact absurd (hc.trans this) (hm.2 c (by simp)).2
        · exact heq
        · have : Memory.read (c :: m) d.1 = initialByte d.1 := Memory.read_of_absent fun e he => by
            rcases List.mem_cons.1 he with rfl | he
            · omega
            · have := hcm.1 e he; omega
          exact absurd (hd.symm.trans this) (hn.2 d (by simp)).2
      have hval : c = d := by
        rw [Memory.read_cons, if_pos key.symm] at hc
        exact Prod.ext key hc
      subst hval
      congr 1
      refine ih ⟨hcm.2, fun e he => hm.2 e (by simp [he])⟩ ⟨hdn.2, fun e he => hn.2 e (by simp [he])⟩ fun a => ?_
      have ha := h a
      rw [Memory.read_cons, Memory.read_cons] at ha
      split at ha
      · next hca =>
        rw [Memory.read_of_absent (m := m) fun e he => by have := hcm.1 e he; omega,
          Memory.read_of_absent (m := n) fun e he => by have := hdn.1 e he; omega]
      · exact ha

end Sys2Proof.Machine
end

