-- ==== Sys2Proof/Laws/Operands.lean ====
section
/-! SUPPORT. The operand forms: addresses as numbers, register blocks, decimal digits, sprite pixels. -/

namespace Sys2Proof.Machine

@[simp] theorem addrOperand_toNat (nnn : BitVec 12) : (addrOperand nnn).toNat = nnn.toNat := by
  have := nnn.isLt
  simp [addrOperand, BitVec.zeroExtend]
  omega

@[simp] theorem State.ea_eq (s : State) (k : Nat) : s.ea k = s.i.toNat + k := rfl

@[simp] theorem State.length_regBlock (s : State) (x : Reg) : (s.regBlock x).length = x.val + 1 := by
  simp [State.regBlock]

theorem State.getElem_regBlock (s : State) (x : Reg) (k : Nat) (h : k < (s.regBlock x).length) :
    (s.regBlock x)[k] = s.reg ⟨k, by have := x.isLt; simp at h; omega⟩ := by
  simp [State.regBlock, State.reg]

theorem State.getElem_loadedRegs (s : State) (x r : Reg) :
    (s.loadedRegs x)[r] = if r ≤ x then s.mem.read (s.ea r.val) else s.reg r := by
  simp [State.loadedRegs]

@[simp] theorem length_bcdDigits (b : Byte) : (bcdDigits b).length = 3 := rfl

@[simp] theorem State.length_spriteRows (s : State) (n : BitVec 4) : (s.spriteRows n).length = n.toNat := by
  simp [State.spriteRows]

/-- The pixels of one sprite row: bit `7 - c` at column `(vx + c) mod 64`. -/
theorem mem_rowPixels {vx : Nat} {py : Fin 32} {b : Byte} {p : Fin 64 × Fin 32} :
    p ∈ rowPixels vx py b ↔ ∃ c < 8, b.getLsbD (7 - c) = true ∧ p = (Fin.ofNat 64 (vx + c), py) := by
  simp only [rowPixels, List.mem_map, List.mem_filter, List.mem_range]
  exact ⟨fun ⟨c, ⟨h1, h2⟩, h3⟩ => ⟨c, h1, h2, h3.symm⟩, fun ⟨c, h1, h2, h3⟩ => ⟨c, ⟨h1, h2⟩, h3.symm⟩⟩

/-- The pixels of a sprite: bit `7 - c` of row `r` at column `(vx + c) mod 64`, row `(vy + r) mod 32`. -/
theorem mem_spritePixels {vx vy : Nat} {rows : List Byte} {p : Fin 64 × Fin 32} :
    p ∈ spritePixels vx vy rows ↔
      ∃ r, ∃ h : r < rows.length, ∃ c < 8, rows[r].getLsbD (7 - c) = true ∧
        p = (Fin.ofNat 64 (vx + c), Fin.ofNat 32 (vy + r)) := by
  induction rows generalizing vy with
  | nil => simp [spritePixels]
  | cons b bs ih =>
    rw [spritePixels, List.mem_append, mem_rowPixels, ih]
    constructor
    · rintro (⟨c, hc, hb, hp⟩ | ⟨r, hr, c, hc, hb, hp⟩)
      · exact ⟨0, by simp, c, hc, hb, hp⟩
      · exact ⟨r + 1, by simpa using hr, c, hc, hb, by rw [hp]; congr 2; omega⟩
    · rintro ⟨r, hr, c, hc, hb, hp⟩
      cases r with
      | zero => exact .inl ⟨c, hc, hb, hp⟩
      | succ r => exact .inr ⟨r, by simpa using hr, c, hc, hb, by rw [hp]; congr 2; omega⟩

theorem nodup_rowPixels (vx : Nat) (py : Fin 32) (b : Byte) : (rowPixels vx py b).Nodup := by
  refine (List.nodup_range.filter _).map_on fun c hc d hd he => ?_
  simp only [List.mem_filter, List.mem_range] at hc hd
  have := congrArg (fun p : Fin 64 × Fin 32 => p.1.val) he
  simp only [Fin.ofNat_eq_cast, Fin.val_natCast] at this
  omega

/-- No cell is named twice by a sprite of at most 32 rows (R162). -/
theorem nodup_spritePixels (vx vy : Nat) {rows : List Byte} (h : rows.length ≤ 32) :
    (spritePixels vx vy rows).Nodup := by
  induction rows generalizing vy with
  | nil => exact List.nodup_nil
  | cons b bs ih =>
    rw [List.length_cons] at h
    refine (nodup_rowPixels vx _ b).append (ih (vy + 1) (by omega)) fun p hp hq => ?_
    obtain ⟨c, hc, -, rfl⟩ := mem_rowPixels.1 hp
    obtain ⟨r, hr, d, hd, -, he⟩ := mem_spritePixels.1 hq
    have := congrArg (fun p : Fin 64 × Fin 32 => p.2.val) he
    simp only [Fin.ofNat_eq_cast, Fin.val_natCast] at this
    omega

theorem State.nodup_spritePixels (s : State) (vx vy : Nat) (n : BitVec 4) :
    (spritePixels vx vy (s.spriteRows n)).Nodup :=
  Sys2Proof.Machine.nodup_spritePixels vx vy (by have := n.isLt; simp; omega)

end Sys2Proof.Machine
end

