-- ==== Sys2Proof/Laws/State.lean ====
section
/-! SUPPORT. One lemma for each field of the state under each update, so that no proof unfolds a record update,
and what the register read gives after a register write. -/

namespace Sys2Proof.Machine

/-! ### setReg -/

@[simp] theorem State.setReg_v (s : State) (r : Reg) (b : Byte) : (s.setReg r b).v = s.v.set r b := rfl
@[simp] theorem State.setReg_pc (s : State) (r : Reg) (b : Byte) : (s.setReg r b).pc = s.pc := rfl
@[simp] theorem State.setReg_i (s : State) (r : Reg) (b : Byte) : (s.setReg r b).i = s.i := rfl
@[simp] theorem State.setReg_stack (s : State) (r : Reg) (b : Byte) : (s.setReg r b).stack = s.stack := rfl
@[simp] theorem State.setReg_dt (s : State) (r : Reg) (b : Byte) : (s.setReg r b).dt = s.dt := rfl
@[simp] theorem State.setReg_st (s : State) (r : Reg) (b : Byte) : (s.setReg r b).st = s.st := rfl
@[simp] theorem State.setReg_keys (s : State) (r : Reg) (b : Byte) : (s.setReg r b).keys = s.keys := rfl
@[simp] theorem State.setReg_fb (s : State) (r : Reg) (b : Byte) : (s.setReg r b).fb = s.fb := rfl
@[simp] theorem State.setReg_mem (s : State) (r : Reg) (b : Byte) : (s.setReg r b).mem = s.mem := rfl
@[simp] theorem State.setReg_inputs (s : State) (r : Reg) (b : Byte) : (s.setReg r b).inputs = s.inputs := rfl
@[simp] theorem State.setReg_stepNo (s : State) (r : Reg) (b : Byte) : (s.setReg r b).stepNo = s.stepNo := rfl
@[simp] theorem State.setReg_unknown (s : State) (r : Reg) (b : Byte) : (s.setReg r b).unknown = s.unknown := rfl

/-! ### setV -/

@[simp] theorem State.setV_v (s : State) (w : Vector Byte 16) : (s.setV w).v = w := rfl
@[simp] theorem State.setV_pc (s : State) (w : Vector Byte 16) : (s.setV w).pc = s.pc := rfl
@[simp] theorem State.setV_i (s : State) (w : Vector Byte 16) : (s.setV w).i = s.i := rfl
@[simp] theorem State.setV_stack (s : State) (w : Vector Byte 16) : (s.setV w).stack = s.stack := rfl
@[simp] theorem State.setV_dt (s : State) (w : Vector Byte 16) : (s.setV w).dt = s.dt := rfl
@[simp] theorem State.setV_st (s : State) (w : Vector Byte 16) : (s.setV w).st = s.st := rfl
@[simp] theorem State.setV_keys (s : State) (w : Vector Byte 16) : (s.setV w).keys = s.keys := rfl
@[simp] theorem State.setV_fb (s : State) (w : Vector Byte 16) : (s.setV w).fb = s.fb := rfl
@[simp] theorem State.setV_mem (s : State) (w : Vector Byte 16) : (s.setV w).mem = s.mem := rfl
@[simp] theorem State.setV_inputs (s : State) (w : Vector Byte 16) : (s.setV w).inputs = s.inputs := rfl
@[simp] theorem State.setV_stepNo (s : State) (w : Vector Byte 16) : (s.setV w).stepNo = s.stepNo := rfl
@[simp] theorem State.setV_unknown (s : State) (w : Vector Byte 16) : (s.setV w).unknown = s.unknown := rfl

/-! ### setPc -/

@[simp] theorem State.setPc_v (s : State) (a : Word) : (s.setPc a).v = s.v := rfl
@[simp] theorem State.setPc_pc (s : State) (a : Word) : (s.setPc a).pc = a := rfl
@[simp] theorem State.setPc_i (s : State) (a : Word) : (s.setPc a).i = s.i := rfl
@[simp] theorem State.setPc_stack (s : State) (a : Word) : (s.setPc a).stack = s.stack := rfl
@[simp] theorem State.setPc_dt (s : State) (a : Word) : (s.setPc a).dt = s.dt := rfl
@[simp] theorem State.setPc_st (s : State) (a : Word) : (s.setPc a).st = s.st := rfl
@[simp] theorem State.setPc_keys (s : State) (a : Word) : (s.setPc a).keys = s.keys := rfl
@[simp] theorem State.setPc_fb (s : State) (a : Word) : (s.setPc a).fb = s.fb := rfl
@[simp] theorem State.setPc_mem (s : State) (a : Word) : (s.setPc a).mem = s.mem := rfl
@[simp] theorem State.setPc_inputs (s : State) (a : Word) : (s.setPc a).inputs = s.inputs := rfl
@[simp] theorem State.setPc_stepNo (s : State) (a : Word) : (s.setPc a).stepNo = s.stepNo := rfl
@[simp] theorem State.setPc_unknown (s : State) (a : Word) : (s.setPc a).unknown = s.unknown := rfl

/-! ### setI -/

@[simp] theorem State.setI_v (s : State) (a : Word) : (s.setI a).v = s.v := rfl
@[simp] theorem State.setI_pc (s : State) (a : Word) : (s.setI a).pc = s.pc := rfl
@[simp] theorem State.setI_i (s : State) (a : Word) : (s.setI a).i = a := rfl
@[simp] theorem State.setI_stack (s : State) (a : Word) : (s.setI a).stack = s.stack := rfl
@[simp] theorem State.setI_dt (s : State) (a : Word) : (s.setI a).dt = s.dt := rfl
@[simp] theorem State.setI_st (s : State) (a : Word) : (s.setI a).st = s.st := rfl
@[simp] theorem State.setI_keys (s : State) (a : Word) : (s.setI a).keys = s.keys := rfl
@[simp] theorem State.setI_fb (s : State) (a : Word) : (s.setI a).fb = s.fb := rfl
@[simp] theorem State.setI_mem (s : State) (a : Word) : (s.setI a).mem = s.mem := rfl
@[simp] theorem State.setI_inputs (s : State) (a : Word) : (s.setI a).inputs = s.inputs := rfl
@[simp] theorem State.setI_stepNo (s : State) (a : Word) : (s.setI a).stepNo = s.stepNo := rfl
@[simp] theorem State.setI_unknown (s : State) (a : Word) : (s.setI a).unknown = s.unknown := rfl

/-! ### setStack -/

@[simp] theorem State.setStack_v (s : State) (k : List Word) : (s.setStack k).v = s.v := rfl
@[simp] theorem State.setStack_pc (s : State) (k : List Word) : (s.setStack k).pc = s.pc := rfl
@[simp] theorem State.setStack_i (s : State) (k : List Word) : (s.setStack k).i = s.i := rfl
@[simp] theorem State.setStack_stack (s : State) (k : List Word) : (s.setStack k).stack = k := rfl
@[simp] theorem State.setStack_dt (s : State) (k : List Word) : (s.setStack k).dt = s.dt := rfl
@[simp] theorem State.setStack_st (s : State) (k : List Word) : (s.setStack k).st = s.st := rfl
@[simp] theorem State.setStack_keys (s : State) (k : List Word) : (s.setStack k).keys = s.keys := rfl
@[simp] theorem State.setStack_fb (s : State) (k : List Word) : (s.setStack k).fb = s.fb := rfl
@[simp] theorem State.setStack_mem (s : State) (k : List Word) : (s.setStack k).mem = s.mem := rfl
@[simp] theorem State.setStack_inputs (s : State) (k : List Word) : (s.setStack k).inputs = s.inputs := rfl
@[simp] theorem State.setStack_stepNo (s : State) (k : List Word) : (s.setStack k).stepNo = s.stepNo := rfl
@[simp] theorem State.setStack_unknown (s : State) (k : List Word) : (s.setStack k).unknown = s.unknown := rfl

/-! ### setDt -/

@[simp] theorem State.setDt_v (s : State) (b : Byte) : (s.setDt b).v = s.v := rfl
@[simp] theorem State.setDt_pc (s : State) (b : Byte) : (s.setDt b).pc = s.pc := rfl
@[simp] theorem State.setDt_i (s : State) (b : Byte) : (s.setDt b).i = s.i := rfl
@[simp] theorem State.setDt_stack (s : State) (b : Byte) : (s.setDt b).stack = s.stack := rfl
@[simp] theorem State.setDt_dt (s : State) (b : Byte) : (s.setDt b).dt = b := rfl
@[simp] theorem State.setDt_st (s : State) (b : Byte) : (s.setDt b).st = s.st := rfl
@[simp] theorem State.setDt_keys (s : State) (b : Byte) : (s.setDt b).keys = s.keys := rfl
@[simp] theorem State.setDt_fb (s : State) (b : Byte) : (s.setDt b).fb = s.fb := rfl
@[simp] theorem State.setDt_mem (s : State) (b : Byte) : (s.setDt b).mem = s.mem := rfl
@[simp] theorem State.setDt_inputs (s : State) (b : Byte) : (s.setDt b).inputs = s.inputs := rfl
@[simp] theorem State.setDt_stepNo (s : State) (b : Byte) : (s.setDt b).stepNo = s.stepNo := rfl
@[simp] theorem State.setDt_unknown (s : State) (b : Byte) : (s.setDt b).unknown = s.unknown := rfl

/-! ### setSt -/

@[simp] theorem State.setSt_v (s : State) (b : Byte) : (s.setSt b).v = s.v := rfl
@[simp] theorem State.setSt_pc (s : State) (b : Byte) : (s.setSt b).pc = s.pc := rfl
@[simp] theorem State.setSt_i (s : State) (b : Byte) : (s.setSt b).i = s.i := rfl
@[simp] theorem State.setSt_stack (s : State) (b : Byte) : (s.setSt b).stack = s.stack := rfl
@[simp] theorem State.setSt_dt (s : State) (b : Byte) : (s.setSt b).dt = s.dt := rfl
@[simp] theorem State.setSt_st (s : State) (b : Byte) : (s.setSt b).st = b := rfl
@[simp] theorem State.setSt_keys (s : State) (b : Byte) : (s.setSt b).keys = s.keys := rfl
@[simp] theorem State.setSt_fb (s : State) (b : Byte) : (s.setSt b).fb = s.fb := rfl
@[simp] theorem State.setSt_mem (s : State) (b : Byte) : (s.setSt b).mem = s.mem := rfl
@[simp] theorem State.setSt_inputs (s : State) (b : Byte) : (s.setSt b).inputs = s.inputs := rfl
@[simp] theorem State.setSt_stepNo (s : State) (b : Byte) : (s.setSt b).stepNo = s.stepNo := rfl
@[simp] theorem State.setSt_unknown (s : State) (b : Byte) : (s.setSt b).unknown = s.unknown := rfl

/-! ### setKeys -/

@[simp] theorem State.setKeys_v (s : State) (k : BitVec 16) : (s.setKeys k).v = s.v := rfl
@[simp] theorem State.setKeys_pc (s : State) (k : BitVec 16) : (s.setKeys k).pc = s.pc := rfl
@[simp] theorem State.setKeys_i (s : State) (k : BitVec 16) : (s.setKeys k).i = s.i := rfl
@[simp] theorem State.setKeys_stack (s : State) (k : BitVec 16) : (s.setKeys k).stack = s.stack := rfl
@[simp] theorem State.setKeys_dt (s : State) (k : BitVec 16) : (s.setKeys k).dt = s.dt := rfl
@[simp] theorem State.setKeys_st (s : State) (k : BitVec 16) : (s.setKeys k).st = s.st := rfl
@[simp] theorem State.setKeys_keys (s : State) (k : BitVec 16) : (s.setKeys k).keys = k := rfl
@[simp] theorem State.setKeys_fb (s : State) (k : BitVec 16) : (s.setKeys k).fb = s.fb := rfl
@[simp] theorem State.setKeys_mem (s : State) (k : BitVec 16) : (s.setKeys k).mem = s.mem := rfl
@[simp] theorem State.setKeys_inputs (s : State) (k : BitVec 16) : (s.setKeys k).inputs = s.inputs := rfl
@[simp] theorem State.setKeys_stepNo (s : State) (k : BitVec 16) : (s.setKeys k).stepNo = s.stepNo := rfl
@[simp] theorem State.setKeys_unknown (s : State) (k : BitVec 16) : (s.setKeys k).unknown = s.unknown := rfl

/-! ### setFb -/

@[simp] theorem State.setFb_v (s : State) (f : Framebuffer) : (s.setFb f).v = s.v := rfl
@[simp] theorem State.setFb_pc (s : State) (f : Framebuffer) : (s.setFb f).pc = s.pc := rfl
@[simp] theorem State.setFb_i (s : State) (f : Framebuffer) : (s.setFb f).i = s.i := rfl
@[simp] theorem State.setFb_stack (s : State) (f : Framebuffer) : (s.setFb f).stack = s.stack := rfl
@[simp] theorem State.setFb_dt (s : State) (f : Framebuffer) : (s.setFb f).dt = s.dt := rfl
@[simp] theorem State.setFb_st (s : State) (f : Framebuffer) : (s.setFb f).st = s.st := rfl
@[simp] theorem State.setFb_keys (s : State) (f : Framebuffer) : (s.setFb f).keys = s.keys := rfl
@[simp] theorem State.setFb_fb (s : State) (f : Framebuffer) : (s.setFb f).fb = f := rfl
@[simp] theorem State.setFb_mem (s : State) (f : Framebuffer) : (s.setFb f).mem = s.mem := rfl
@[simp] theorem State.setFb_inputs (s : State) (f : Framebuffer) : (s.setFb f).inputs = s.inputs := rfl
@[simp] theorem State.setFb_stepNo (s : State) (f : Framebuffer) : (s.setFb f).stepNo = s.stepNo := rfl
@[simp] theorem State.setFb_unknown (s : State) (f : Framebuffer) : (s.setFb f).unknown = s.unknown := rfl

/-! ### setMem -/

@[simp] theorem State.setMem_v (s : State) (m : Memory) : (s.setMem m).v = s.v := rfl
@[simp] theorem State.setMem_pc (s : State) (m : Memory) : (s.setMem m).pc = s.pc := rfl
@[simp] theorem State.setMem_i (s : State) (m : Memory) : (s.setMem m).i = s.i := rfl
@[simp] theorem State.setMem_stack (s : State) (m : Memory) : (s.setMem m).stack = s.stack := rfl
@[simp] theorem State.setMem_dt (s : State) (m : Memory) : (s.setMem m).dt = s.dt := rfl
@[simp] theorem State.setMem_st (s : State) (m : Memory) : (s.setMem m).st = s.st := rfl
@[simp] theorem State.setMem_keys (s : State) (m : Memory) : (s.setMem m).keys = s.keys := rfl
@[simp] theorem State.setMem_fb (s : State) (m : Memory) : (s.setMem m).fb = s.fb := rfl
@[simp] theorem State.setMem_mem (s : State) (m : Memory) : (s.setMem m).mem = m := rfl
@[simp] theorem State.setMem_inputs (s : State) (m : Memory) : (s.setMem m).inputs = s.inputs := rfl
@[simp] theorem State.setMem_stepNo (s : State) (m : Memory) : (s.setMem m).stepNo = s.stepNo := rfl
@[simp] theorem State.setMem_unknown (s : State) (m : Memory) : (s.setMem m).unknown = s.unknown := rfl

/-! ### addPc -/

@[simp] theorem State.addPc_v (s : State) (d : Word) : (s.addPc d).v = s.v := rfl
@[simp] theorem State.addPc_pc (s : State) (d : Word) : (s.addPc d).pc = s.pc + d := rfl
@[simp] theorem State.addPc_i (s : State) (d : Word) : (s.addPc d).i = s.i := rfl
@[simp] theorem State.addPc_stack (s : State) (d : Word) : (s.addPc d).stack = s.stack := rfl
@[simp] theorem State.addPc_dt (s : State) (d : Word) : (s.addPc d).dt = s.dt := rfl
@[simp] theorem State.addPc_st (s : State) (d : Word) : (s.addPc d).st = s.st := rfl
@[simp] theorem State.addPc_keys (s : State) (d : Word) : (s.addPc d).keys = s.keys := rfl
@[simp] theorem State.addPc_fb (s : State) (d : Word) : (s.addPc d).fb = s.fb := rfl
@[simp] theorem State.addPc_mem (s : State) (d : Word) : (s.addPc d).mem = s.mem := rfl
@[simp] theorem State.addPc_inputs (s : State) (d : Word) : (s.addPc d).inputs = s.inputs := rfl
@[simp] theorem State.addPc_stepNo (s : State) (d : Word) : (s.addPc d).stepNo = s.stepNo := rfl
@[simp] theorem State.addPc_unknown (s : State) (d : Word) : (s.addPc d).unknown = s.unknown := rfl

/-! ### setVF -/

@[simp] theorem State.setVF_v (s : State) (c : Bool) : (s.setVF c).v = s.v.set 15 (flagByte c) := rfl
@[simp] theorem State.setVF_pc (s : State) (c : Bool) : (s.setVF c).pc = s.pc := rfl
@[simp] theorem State.setVF_i (s : State) (c : Bool) : (s.setVF c).i = s.i := rfl
@[simp] theorem State.setVF_stack (s : State) (c : Bool) : (s.setVF c).stack = s.stack := rfl
@[simp] theorem State.setVF_dt (s : State) (c : Bool) : (s.setVF c).dt = s.dt := rfl
@[simp] theorem State.setVF_st (s : State) (c : Bool) : (s.setVF c).st = s.st := rfl
@[simp] theorem State.setVF_keys (s : State) (c : Bool) : (s.setVF c).keys = s.keys := rfl
@[simp] theorem State.setVF_fb (s : State) (c : Bool) : (s.setVF c).fb = s.fb := rfl
@[simp] theorem State.setVF_mem (s : State) (c : Bool) : (s.setVF c).mem = s.mem := rfl
@[simp] theorem State.setVF_inputs (s : State) (c : Bool) : (s.setVF c).inputs = s.inputs := rfl
@[simp] theorem State.setVF_stepNo (s : State) (c : Bool) : (s.setVF c).stepNo = s.stepNo := rfl
@[simp] theorem State.setVF_unknown (s : State) (c : Bool) : (s.setVF c).unknown = s.unknown := rfl

/-! ### setRegThenVF -/

@[simp] theorem State.setRegThenVF_v (s : State) (x : Reg) (b : Byte) (c : Bool) : (s.setRegThenVF x b c).v = (s.v.set x b).set 15 (flagByte c) := rfl
@[simp] theorem State.setRegThenVF_pc (s : State) (x : Reg) (b : Byte) (c : Bool) : (s.setRegThenVF x b c).pc = s.pc := rfl
@[simp] theorem State.setRegThenVF_i (s : State) (x : Reg) (b : Byte) (c : Bool) : (s.setRegThenVF x b c).i = s.i := rfl
@[simp] theorem State.setRegThenVF_stack (s : State) (x : Reg) (b : Byte) (c : Bool) : (s.setRegThenVF x b c).stack = s.stack := rfl
@[simp] theorem State.setRegThenVF_dt (s : State) (x : Reg) (b : Byte) (c : Bool) : (s.setRegThenVF x b c).dt = s.dt := rfl
@[simp] theorem State.setRegThenVF_st (s : State) (x : Reg) (b : Byte) (c : Bool) : (s.setRegThenVF x b c).st = s.st := rfl
@[simp] theorem State.setRegThenVF_keys (s : State) (x : Reg) (b : Byte) (c : Bool) : (s.setRegThenVF x b c).keys = s.keys := rfl
@[simp] theorem State.setRegThenVF_fb (s : State) (x : Reg) (b : Byte) (c : Bool) : (s.setRegThenVF x b c).fb = s.fb := rfl
@[simp] theorem State.setRegThenVF_mem (s : State) (x : Reg) (b : Byte) (c : Bool) : (s.setRegThenVF x b c).mem = s.mem := rfl
@[simp] theorem State.setRegThenVF_inputs (s : State) (x : Reg) (b : Byte) (c : Bool) : (s.setRegThenVF x b c).inputs = s.inputs := rfl
@[simp] theorem State.setRegThenVF_stepNo (s : State) (x : Reg) (b : Byte) (c : Bool) : (s.setRegThenVF x b c).stepNo = s.stepNo := rfl
@[simp] theorem State.setRegThenVF_unknown (s : State) (x : Reg) (b : Byte) (c : Bool) : (s.setRegThenVF x b c).unknown = s.unknown := rfl

/-! ### latchKeys -/

@[simp] theorem State.latchKeys_v (s : State) : s.latchKeys.v = s.v := rfl
@[simp] theorem State.latchKeys_pc (s : State) : s.latchKeys.pc = s.pc := rfl
@[simp] theorem State.latchKeys_i (s : State) : s.latchKeys.i = s.i := rfl
@[simp] theorem State.latchKeys_stack (s : State) : s.latchKeys.stack = s.stack := rfl
@[simp] theorem State.latchKeys_dt (s : State) : s.latchKeys.dt = s.dt := rfl
@[simp] theorem State.latchKeys_st (s : State) : s.latchKeys.st = s.st := rfl
@[simp] theorem State.latchKeys_keys (s : State) : s.latchKeys.keys = s.presentedKeys := rfl
@[simp] theorem State.latchKeys_fb (s : State) : s.latchKeys.fb = s.fb := rfl
@[simp] theorem State.latchKeys_mem (s : State) : s.latchKeys.mem = s.mem := rfl
@[simp] theorem State.latchKeys_inputs (s : State) : s.latchKeys.inputs = s.inputs := rfl
@[simp] theorem State.latchKeys_stepNo (s : State) : s.latchKeys.stepNo = s.stepNo := rfl
@[simp] theorem State.latchKeys_unknown (s : State) : s.latchKeys.unknown = s.unknown := rfl

/-! ### advancePc -/

@[simp] theorem State.advancePc_v (s : State) : s.advancePc.v = s.v := rfl
@[simp] theorem State.advancePc_pc (s : State) : s.advancePc.pc = s.pc + 2 := rfl
@[simp] theorem State.advancePc_i (s : State) : s.advancePc.i = s.i := rfl
@[simp] theorem State.advancePc_stack (s : State) : s.advancePc.stack = s.stack := rfl
@[simp] theorem State.advancePc_dt (s : State) : s.advancePc.dt = s.dt := rfl
@[simp] theorem State.advancePc_st (s : State) : s.advancePc.st = s.st := rfl
@[simp] theorem State.advancePc_keys (s : State) : s.advancePc.keys = s.keys := rfl
@[simp] theorem State.advancePc_fb (s : State) : s.advancePc.fb = s.fb := rfl
@[simp] theorem State.advancePc_mem (s : State) : s.advancePc.mem = s.mem := rfl
@[simp] theorem State.advancePc_inputs (s : State) : s.advancePc.inputs = s.inputs := rfl
@[simp] theorem State.advancePc_stepNo (s : State) : s.advancePc.stepNo = s.stepNo := rfl
@[simp] theorem State.advancePc_unknown (s : State) : s.advancePc.unknown = s.unknown := rfl

/-! ### tick -/

@[simp] theorem State.tick_v (s : State) : s.tick.v = s.v := rfl
@[simp] theorem State.tick_pc (s : State) : s.tick.pc = s.pc := rfl
@[simp] theorem State.tick_i (s : State) : s.tick.i = s.i := rfl
@[simp] theorem State.tick_stack (s : State) : s.tick.stack = s.stack := rfl
@[simp] theorem State.tick_dt (s : State) : s.tick.dt = decTimer s.dt := rfl
@[simp] theorem State.tick_st (s : State) : s.tick.st = decTimer s.st := rfl
@[simp] theorem State.tick_keys (s : State) : s.tick.keys = s.keys := rfl
@[simp] theorem State.tick_fb (s : State) : s.tick.fb = s.fb := rfl
@[simp] theorem State.tick_mem (s : State) : s.tick.mem = s.mem := rfl
@[simp] theorem State.tick_inputs (s : State) : s.tick.inputs = s.inputs := rfl
@[simp] theorem State.tick_stepNo (s : State) : s.tick.stepNo = s.stepNo := rfl
@[simp] theorem State.tick_unknown (s : State) : s.tick.unknown = s.unknown := rfl

/-! ### nextInput -/

@[simp] theorem State.nextInput_v (s : State) : s.nextInput.v = s.v := rfl
@[simp] theorem State.nextInput_pc (s : State) : s.nextInput.pc = s.pc := rfl
@[simp] theorem State.nextInput_i (s : State) : s.nextInput.i = s.i := rfl
@[simp] theorem State.nextInput_stack (s : State) : s.nextInput.stack = s.stack := rfl
@[simp] theorem State.nextInput_dt (s : State) : s.nextInput.dt = s.dt := rfl
@[simp] theorem State.nextInput_st (s : State) : s.nextInput.st = s.st := rfl
@[simp] theorem State.nextInput_keys (s : State) : s.nextInput.keys = s.keys := rfl
@[simp] theorem State.nextInput_fb (s : State) : s.nextInput.fb = s.fb := rfl
@[simp] theorem State.nextInput_mem (s : State) : s.nextInput.mem = s.mem := rfl
@[simp] theorem State.nextInput_inputs (s : State) : s.nextInput.inputs = s.inputs.tail := rfl
@[simp] theorem State.nextInput_stepNo (s : State) : s.nextInput.stepNo = s.stepNo + 1 := rfl
@[simp] theorem State.nextInput_unknown (s : State) : s.nextInput.unknown = s.unknown := rfl

/-! ### report -/

@[simp] theorem State.report_v (s : State) (u : Bool) : (s.report u).v = s.v := rfl
@[simp] theorem State.report_pc (s : State) (u : Bool) : (s.report u).pc = s.pc := rfl
@[simp] theorem State.report_i (s : State) (u : Bool) : (s.report u).i = s.i := rfl
@[simp] theorem State.report_stack (s : State) (u : Bool) : (s.report u).stack = s.stack := rfl
@[simp] theorem State.report_dt (s : State) (u : Bool) : (s.report u).dt = s.dt := rfl
@[simp] theorem State.report_st (s : State) (u : Bool) : (s.report u).st = s.st := rfl
@[simp] theorem State.report_keys (s : State) (u : Bool) : (s.report u).keys = s.keys := rfl
@[simp] theorem State.report_fb (s : State) (u : Bool) : (s.report u).fb = s.fb := rfl
@[simp] theorem State.report_mem (s : State) (u : Bool) : (s.report u).mem = s.mem := rfl
@[simp] theorem State.report_inputs (s : State) (u : Bool) : (s.report u).inputs = s.inputs := rfl
@[simp] theorem State.report_stepNo (s : State) (u : Bool) : (s.report u).stepNo = s.stepNo := rfl
@[simp] theorem State.report_unknown (s : State) (u : Bool) : (s.report u).unknown = u := rfl

/-! ### endStep -/

@[simp] theorem State.endStep_v (s : State) (u : Bool) : (s.endStep u).v = s.v := rfl
@[simp] theorem State.endStep_pc (s : State) (u : Bool) : (s.endStep u).pc = s.pc := rfl
@[simp] theorem State.endStep_i (s : State) (u : Bool) : (s.endStep u).i = s.i := rfl
@[simp] theorem State.endStep_stack (s : State) (u : Bool) : (s.endStep u).stack = s.stack := rfl
@[simp] theorem State.endStep_dt (s : State) (u : Bool) : (s.endStep u).dt = decTimer s.dt := rfl
@[simp] theorem State.endStep_st (s : State) (u : Bool) : (s.endStep u).st = decTimer s.st := rfl
@[simp] theorem State.endStep_keys (s : State) (u : Bool) : (s.endStep u).keys = s.keys := rfl
@[simp] theorem State.endStep_fb (s : State) (u : Bool) : (s.endStep u).fb = s.fb := rfl
@[simp] theorem State.endStep_mem (s : State) (u : Bool) : (s.endStep u).mem = s.mem := rfl
@[simp] theorem State.endStep_inputs (s : State) (u : Bool) : (s.endStep u).inputs = s.inputs.tail := rfl
@[simp] theorem State.endStep_stepNo (s : State) (u : Bool) : (s.endStep u).stepNo = s.stepNo + 1 := rfl
@[simp] theorem State.endStep_unknown (s : State) (u : Bool) : (s.endStep u).unknown = u := rfl

/-! ### skipIf -/

/-- A skip adds 2 to `PC` or nothing. -/
theorem State.skipIf_eq_setPc (s : State) (c : Bool) : s.skipIf c = s.setPc (if c then s.pc + 2 else s.pc) := by
  cases c <;> rfl

@[simp] theorem State.skipIf_v (s : State) (c : Bool) : (s.skipIf c).v = s.v := by
  cases c <;> rfl
@[simp] theorem State.skipIf_pc (s : State) (c : Bool) : (s.skipIf c).pc = if c then s.pc + 2 else s.pc := by
  cases c <;> rfl
@[simp] theorem State.skipIf_i (s : State) (c : Bool) : (s.skipIf c).i = s.i := by
  cases c <;> rfl
@[simp] theorem State.skipIf_stack (s : State) (c : Bool) : (s.skipIf c).stack = s.stack := by
  cases c <;> rfl
@[simp] theorem State.skipIf_dt (s : State) (c : Bool) : (s.skipIf c).dt = s.dt := by
  cases c <;> rfl
@[simp] theorem State.skipIf_st (s : State) (c : Bool) : (s.skipIf c).st = s.st := by
  cases c <;> rfl
@[simp] theorem State.skipIf_keys (s : State) (c : Bool) : (s.skipIf c).keys = s.keys := by
  cases c <;> rfl
@[simp] theorem State.skipIf_fb (s : State) (c : Bool) : (s.skipIf c).fb = s.fb := by
  cases c <;> rfl
@[simp] theorem State.skipIf_mem (s : State) (c : Bool) : (s.skipIf c).mem = s.mem := by
  cases c <;> rfl
@[simp] theorem State.skipIf_inputs (s : State) (c : Bool) : (s.skipIf c).inputs = s.inputs := by
  cases c <;> rfl
@[simp] theorem State.skipIf_stepNo (s : State) (c : Bool) : (s.skipIf c).stepNo = s.stepNo := by
  cases c <;> rfl
@[simp] theorem State.skipIf_unknown (s : State) (c : Bool) : (s.skipIf c).unknown = s.unknown := by
  cases c <;> rfl

/-! ### The architectural state -/

/-- Using up an input and reporting the diagnostic bit leave the architectural state alone (R35, R207). -/
@[simp] theorem State.nextInput_toArchState (s : State) : s.nextInput.toArchState = s.toArchState := rfl
@[simp] theorem State.report_toArchState (s : State) (u : Bool) : (s.report u).toArchState = s.toArchState := rfl
@[simp] theorem State.endStep_toArchState (s : State) (u : Bool) :
    (s.endStep u).toArchState = s.tick.toArchState := rfl

/-! ### Register reads -/

@[simp] theorem State.reg_setReg (s : State) (r q : Reg) (b : Byte) :
    (s.setReg r b).reg q = if q = r then b else s.reg q := by
  simp only [State.reg, State.setReg, Fin.getElem_fin, Vector.getElem_set, Fin.ext_iff, eq_comm]

theorem State.reg_setReg_self (s : State) (r : Reg) (b : Byte) : (s.setReg r b).reg r = b := by simp

theorem State.reg_setReg_of_ne (s : State) {r q : Reg} (b : Byte) (h : q ≠ r) :
    (s.setReg r b).reg q = s.reg q := by simp [h]

@[simp] theorem State.reg_setVF (s : State) (c : Bool) (q : Reg) :
    (s.setVF c).reg q = if q = 15 then flagByte c else s.reg q := State.reg_setReg s 15 q _

/-- The flag wins where `x` is 15 (R23). -/
@[simp] theorem State.reg_setRegThenVF (s : State) (x q : Reg) (b : Byte) (c : Bool) :
    (s.setRegThenVF x b c).reg q = if q = 15 then flagByte c else if q = x then b else s.reg q := by
  rw [State.setRegThenVF, State.reg_setVF, State.reg_setReg]

@[simp] theorem State.reg_setPc (s : State) (a : Word) (q : Reg) : (s.setPc a).reg q = s.reg q := rfl
@[simp] theorem State.reg_setI (s : State) (a : Word) (q : Reg) : (s.setI a).reg q = s.reg q := rfl
@[simp] theorem State.reg_setStack (s : State) (k : List Word) (q : Reg) : (s.setStack k).reg q = s.reg q := rfl
@[simp] theorem State.reg_setDt (s : State) (b : Byte) (q : Reg) : (s.setDt b).reg q = s.reg q := rfl
@[simp] theorem State.reg_setSt (s : State) (b : Byte) (q : Reg) : (s.setSt b).reg q = s.reg q := rfl
@[simp] theorem State.reg_setKeys (s : State) (k : BitVec 16) (q : Reg) : (s.setKeys k).reg q = s.reg q := rfl
@[simp] theorem State.reg_setFb (s : State) (f : Framebuffer) (q : Reg) : (s.setFb f).reg q = s.reg q := rfl
@[simp] theorem State.reg_setMem (s : State) (m : Memory) (q : Reg) : (s.setMem m).reg q = s.reg q := rfl
@[simp] theorem State.reg_addPc (s : State) (d : Word) (q : Reg) : (s.addPc d).reg q = s.reg q := rfl
@[simp] theorem State.reg_latchKeys (s : State) (q : Reg) : s.latchKeys.reg q = s.reg q := rfl
@[simp] theorem State.reg_advancePc (s : State) (q : Reg) : s.advancePc.reg q = s.reg q := rfl
@[simp] theorem State.reg_tick (s : State) (q : Reg) : s.tick.reg q = s.reg q := rfl
@[simp] theorem State.reg_nextInput (s : State) (q : Reg) : s.nextInput.reg q = s.reg q := rfl
@[simp] theorem State.reg_report (s : State) (u : Bool) (q : Reg) : (s.report u).reg q = s.reg q := rfl
@[simp] theorem State.reg_endStep (s : State) (u : Bool) (q : Reg) : (s.endStep u).reg q = s.reg q := rfl
@[simp] theorem State.reg_skipIf (s : State) (c : Bool) (q : Reg) : (s.skipIf c).reg q = s.reg q := by
  cases c <;> rfl
@[simp] theorem State.reg_setV (s : State) (w : Vector Byte 16) (q : Reg) : (s.setV w).reg q = w[q] := rfl

/-- Two states with the same registers and the same other fields are equal. -/
theorem State.v_ext {v w : Vector Byte 16} (h : ∀ r : Reg, v[r] = w[r]) : v = w :=
  Vector.ext fun k hk => h ⟨k, hk⟩

end Sys2Proof.Machine
end

