-- ==== Sys2Proof/Laws/Ops.lean ====
section
/-! SUPPORT. What each shared operation can answer, said once: the bounds check, push and pop, the key operand,
the fetch, the key choice, the inputs and the timers. -/

namespace Sys2Proof.Machine

/-! ### The bounds check -/

/-- The bounds check goes on exactly when no byte lies above 0xFFF, and then to the state it was given. -/
theorem checkRange_eq_next {a n : Nat} {t u : State} :
    checkRange a n t = .next u ↔ (n = 0 ∨ a + n ≤ 0x1000) ∧ u = t := by
  unfold checkRange
  split
  · next h => exact ⟨fun h' => by simp at h', fun h' => absurd h'.1 (by omega)⟩
  · next h =>
    rw [Host.Outcome.next.injEq]
    exact ⟨fun h' => ⟨by omega, h'.symm⟩, fun h' => h'.2.symm⟩

theorem checkRange_of_inside {a n : Nat} {t : State} (h : n = 0 ∨ a + n ≤ 0x1000) : checkRange a n t = .next t :=
  checkRange_eq_next.2 ⟨h, rfl⟩

/-- The bounds check faults exactly when the last of at least one byte lies above 0xFFF, with its address. -/
theorem checkRange_eq_fault {a n : Nat} {t : State} {f : Fault} :
    checkRange a n t = .fault f ↔ 1 ≤ n ∧ 0xFFF < a + n - 1 ∧ f = .memoryOutOfBounds (a + n - 1) := by
  unfold checkRange
  split
  · next h =>
    rw [Host.Outcome.fault.injEq]
    exact ⟨fun h' => ⟨h.1, h.2, h'.symm⟩, fun h' => h'.2.2.symm⟩
  · next h => exact ⟨fun h' => by simp at h', fun h' => absurd ⟨h'.1, h'.2.1⟩ h⟩

theorem checkRange_ne_refused {a n : Nat} {t : State} {r : Refusal} : checkRange a n t ≠ .refused r := by
  unfold checkRange
  split <;> simp

/-- An update of the state that the access goes on to may be made after the check. -/
theorem checkRange_map (a n : Nat) (t : State) (g : State → State) :
    checkRange a n (g t) = match checkRange a n t with
      | .next u => .next (g u)
      | .fault f => .fault f
      | .refused r => .refused r := by
  unfold checkRange
  split <;> rfl

/-! ### Push and pop -/

theorem pushAndJump_eq_next {a : Word} {s u : State} :
    pushAndJump a s = .next u ↔ s.stack.length < 16 ∧ u = (s.setStack (s.pc :: s.stack)).setPc a := by
  unfold pushAndJump
  split
  · next h => exact ⟨fun h' => by simp at h', fun h' => absurd h'.1 (by omega)⟩
  · next h =>
    rw [Host.Outcome.next.injEq]
    exact ⟨fun h' => ⟨by omega, h'.symm⟩, fun h' => h'.2.symm⟩

theorem pushAndJump_eq_fault {a : Word} {s : State} {f : Fault} :
    pushAndJump a s = .fault f ↔ 16 ≤ s.stack.length ∧ f = .stackOverflow := by
  unfold pushAndJump
  split <;> simp_all [eq_comm]

theorem pushAndJump_ne_refused {a : Word} {s : State} {r : Refusal} : pushAndJump a s ≠ .refused r := by
  unfold pushAndJump
  split <;> simp

theorem popAndJump_eq_next {s u : State} :
    popAndJump s = .next u ↔ ∃ a rest, s.stack = a :: rest ∧ u = (s.setStack rest).setPc a := by
  unfold popAndJump
  split
  · next h => simp [h]
  · next a rest h => simp [h, eq_comm]

theorem popAndJump_eq_fault {s : State} {f : Fault} :
    popAndJump s = .fault f ↔ s.stack = [] ∧ f = .stackUnderflow := by
  unfold popAndJump
  split
  · next h => simp [h, eq_comm]
  · next a rest h => simp [h]

theorem popAndJump_ne_refused {s : State} {r : Refusal} : popAndJump s ≠ .refused r := by
  unfold popAndJump
  split <;> simp

/-! ### The key operand and the key choice -/

theorem withKey_eq_next {x : Reg} {s u : State} {go : Bool → State} :
    withKey x s go = .next u ↔ (s.reg x).toNat ≤ 15 ∧ u = go (s.keys.getLsbD (s.reg x).toNat) := by
  unfold withKey
  split
  · next h => exact ⟨fun h' => by simp at h', fun h' => absurd h'.1 (by omega)⟩
  · next h =>
    rw [Host.Outcome.next.injEq]
    exact ⟨fun h' => ⟨by omega, h'.symm⟩, fun h' => h'.2.symm⟩

theorem withKey_eq_fault {x : Reg} {s : State} {go : Bool → State} {f : Fault} :
    withKey x s go = .fault f ↔ 15 < (s.reg x).toNat ∧ f = .keyIndexOutOfRange (s.reg x) := by
  unfold withKey
  split <;> simp_all [eq_comm]

theorem withKey_ne_refused {x : Reg} {s : State} {go : Bool → State} {r : Refusal} :
    withKey x s go ≠ .refused r := by
  unfold withKey
  split <;> simp

theorem lowestKeyFrom_pressed {p : BitVec 16} {k fuel : Nat} (hk : k + fuel ≤ 16)
    (h : ∃ j, k ≤ j ∧ j < k + fuel ∧ p.getLsbD j = true) : p.getLsbD (lowestKeyFrom p k fuel) = true := by
  induction fuel generalizing k with
  | zero => obtain ⟨j, h1, h2, -⟩ := h; omega
  | succ fuel ih =>
    rw [lowestKeyFrom]
    split
    · next hp =>
      have : (Fin.ofNat 16 k).val = k := by simp; omega
      rwa [this]
    · next hp =>
      obtain ⟨j, h1, h2, h3⟩ := h
      refine ih (by omega) ⟨j, ?_, by omega, h3⟩
      rcases Nat.eq_or_lt_of_le h1 with rfl | h1
      · exact absurd h3 hp
      · exact h1

/-- Of a non-empty set of pressed keys, the lowest-numbered one is pressed. -/
theorem lowestKey_pressed {p : BitVec 16} (h : p ≠ 0) : p.getLsbD (lowestKey p) = true := by
  refine lowestKeyFrom_pressed (by omega) ?_
  by_contra hn
  refine h (BitVec.eq_of_getLsbD_eq fun j hj => ?_)
  have : ¬ p.getLsbD j = true := fun hp => hn ⟨j, by omega, by omega, hp⟩
  simpa using this

/-- KEY_PICK answers a member of a non-empty set of pressed keys (R174). -/
theorem keyPick_pressed {p : BitVec 16} (h : p ≠ 0) : p.getLsbD (keyPick p) = true := by
  unfold keyPick
  split
  · exact lowestKey_pressed h
  · split
    · next hk => exact hk
    · exact lowestKey_pressed h

/-! ### The fetch, the inputs and the timers -/

theorem State.fetch_eq_ok {s : State} {w : Word} :
    s.fetch = .ok w ↔ s.pc.toNat + 1 ≤ 0xFFF ∧
      w = wordOfBytes (s.mem.read s.pc.toNat) (s.mem.read (s.pc.toNat + 1)) := by
  unfold State.fetch
  split
  · next h => exact ⟨fun h' => by simp at h', fun h' => absurd h'.1 (by omega)⟩
  · next h =>
    rw [Except.ok.injEq]
    exact ⟨fun h' => ⟨by omega, h'.symm⟩, fun h' => h'.2.symm⟩

theorem State.fetch_eq_error {s : State} {f : Fault} :
    s.fetch = .error f ↔ 0xFFF < s.pc.toNat + 1 ∧ f = .fetchOutOfBounds s.pc := by
  unfold State.fetch
  split <;> simp_all [eq_comm]

/-- The host's keys do not change what is fetched. -/
@[simp] theorem State.fetch_latchKeys (s : State) : s.latchKeys.fetch = s.fetch := rfl

theorem State.presentedKeys_of_input {s : State} {p : StepInput} {rest : List StepInput}
    (h : s.inputs = p :: rest) : s.presentedKeys = p.keys := by
  rw [State.presentedKeys, h]

theorem State.rnd_of_input {s : State} {p : StepInput} {rest : List StepInput} (h : s.inputs = p :: rest) :
    s.rnd = p.rnd := by
  rw [State.rnd, h]

/-- The tick as natural-number subtraction, which stops at 0. -/
theorem decTimer_toNat (b : Byte) : (decTimer b).toNat = b.toNat - 1 := by
  unfold decTimer
  split
  · next h => simp [h]
  · next h =>
    have h0 : b.toNat ≠ 0 := fun h' => h (BitVec.eq_of_toNat_eq (by simpa using h'))
    have hb := b.isLt
    rw [BitVec.toNat_sub]
    simp
    omega

end Sys2Proof.Machine
end

