-- ==== Sys2Proof/Laws/PerInstr.lean ====
section
/-! SUPPORT. The per-instruction family `EncodesItsRow`: the word an instruction encodes to is well formed, and
the row it matches is the row of its own mnemonic (30_encoding.md rules R73, R76). -/

namespace Sys2Proof.Laws.EncodesItsRow

/-- The encoded word matches a row of the opcode map that bears the instruction's mnemonic. -/
def Statement (i : Instr) : Prop := ∃ r ∈ opcodeRows, r.mnemonic = i.mnemonic ∧ r.matches (encode i) = true

theorem cls : Statement (.cls) :=
  ⟨⟨"CLS", 0x00E0, 0xFFFF⟩, by decide, rfl, by decide⟩

theorem ret : Statement (.ret) :=
  ⟨⟨"RET", 0x00EE, 0xFFFF⟩, by decide, rfl, by decide⟩

theorem jp (nnn : BitVec 12) : Statement (.jp nnn) :=
  ⟨⟨"JP", 0x1000, 0xF000⟩, by decide, rfl, by rw [OpcodeRow.matches, encode, formatA_and]; decide⟩

theorem call (nnn : BitVec 12) : Statement (.call nnn) :=
  ⟨⟨"CALL", 0x2000, 0xF000⟩, by decide, rfl, by rw [OpcodeRow.matches, encode, formatA_and]; decide⟩

theorem sei (x : Reg) (kk : Byte) : Statement (.sei x kk) :=
  ⟨⟨"SEI", 0x3000, 0xF000⟩, by decide, rfl, by rw [OpcodeRow.matches, encode, formatRI_and]; decide⟩

theorem snei (x : Reg) (kk : Byte) : Statement (.snei x kk) :=
  ⟨⟨"SNEI", 0x4000, 0xF000⟩, by decide, rfl, by rw [OpcodeRow.matches, encode, formatRI_and]; decide⟩

theorem ser (x y : Reg) : Statement (.ser x y) :=
  ⟨⟨"SER", 0x5000, 0xF00F⟩, by decide, rfl, by rw [OpcodeRow.matches, encode, formatRR_and]; decide⟩

theorem ldi (x : Reg) (kk : Byte) : Statement (.ldi x kk) :=
  ⟨⟨"LDI", 0x6000, 0xF000⟩, by decide, rfl, by rw [OpcodeRow.matches, encode, formatRI_and]; decide⟩

theorem addi (x : Reg) (kk : Byte) : Statement (.addi x kk) :=
  ⟨⟨"ADDI", 0x7000, 0xF000⟩, by decide, rfl, by rw [OpcodeRow.matches, encode, formatRI_and]; decide⟩

theorem mov (x y : Reg) : Statement (.mov x y) :=
  ⟨⟨"MOV", 0x8000, 0xF00F⟩, by decide, rfl, by rw [OpcodeRow.matches, encode, formatRR_and]; decide⟩

theorem or (x y : Reg) : Statement (.or x y) :=
  ⟨⟨"OR", 0x8001, 0xF00F⟩, by decide, rfl, by rw [OpcodeRow.matches, encode, formatRR_and]; decide⟩

theorem and (x y : Reg) : Statement (.and x y) :=
  ⟨⟨"AND", 0x8002, 0xF00F⟩, by decide, rfl, by rw [OpcodeRow.matches, encode, formatRR_and]; decide⟩

theorem xor (x y : Reg) : Statement (.xor x y) :=
  ⟨⟨"XOR", 0x8003, 0xF00F⟩, by decide, rfl, by rw [OpcodeRow.matches, encode, formatRR_and]; decide⟩

theorem add (x y : Reg) : Statement (.add x y) :=
  ⟨⟨"ADD", 0x8004, 0xF00F⟩, by decide, rfl, by rw [OpcodeRow.matches, encode, formatRR_and]; decide⟩

theorem sub (x y : Reg) : Statement (.sub x y) :=
  ⟨⟨"SUB", 0x8005, 0xF00F⟩, by decide, rfl, by rw [OpcodeRow.matches, encode, formatRR_and]; decide⟩

theorem shr (x y : Reg) : Statement (.shr x y) :=
  ⟨⟨"SHR", 0x8006, 0xF00F⟩, by decide, rfl, by rw [OpcodeRow.matches, encode, formatRR_and]; decide⟩

theorem subn (x y : Reg) : Statement (.subn x y) :=
  ⟨⟨"SUBN", 0x8007, 0xF00F⟩, by decide, rfl, by rw [OpcodeRow.matches, encode, formatRR_and]; decide⟩

theorem shl (x y : Reg) : Statement (.shl x y) :=
  ⟨⟨"SHL", 0x800E, 0xF00F⟩, by decide, rfl, by rw [OpcodeRow.matches, encode, formatRR_and]; decide⟩

theorem sner (x y : Reg) : Statement (.sner x y) :=
  ⟨⟨"SNER", 0x9000, 0xF00F⟩, by decide, rfl, by rw [OpcodeRow.matches, encode, formatRR_and]; decide⟩

theorem ldix (nnn : BitVec 12) : Statement (.ldix nnn) :=
  ⟨⟨"LDIX", 0xA000, 0xF000⟩, by decide, rfl, by rw [OpcodeRow.matches, encode, formatA_and]; decide⟩

theorem jpv0 (nnn : BitVec 12) : Statement (.jpv0 nnn) :=
  ⟨⟨"JPV0", 0xB000, 0xF000⟩, by decide, rfl, by rw [OpcodeRow.matches, encode, formatA_and]; decide⟩

theorem rnd (x : Reg) (kk : Byte) : Statement (.rnd x kk) :=
  ⟨⟨"RND", 0xC000, 0xF000⟩, by decide, rfl, by rw [OpcodeRow.matches, encode, formatRI_and]; decide⟩

theorem drw (x y : Reg) (n : BitVec 4) : Statement (.drw x y n) :=
  ⟨⟨"DRW", 0xD000, 0xF000⟩, by decide, rfl, by rw [OpcodeRow.matches, encode, formatRRN_and]; decide⟩

theorem skp (x : Reg) : Statement (.skp x) :=
  ⟨⟨"SKP", 0xE09E, 0xF0FF⟩, by decide, rfl, by rw [OpcodeRow.matches, encode, formatR_and]; decide⟩

theorem sknp (x : Reg) : Statement (.sknp x) :=
  ⟨⟨"SKNP", 0xE0A1, 0xF0FF⟩, by decide, rfl, by rw [OpcodeRow.matches, encode, formatR_and]; decide⟩

theorem rddt (x : Reg) : Statement (.rddt x) :=
  ⟨⟨"RDDT", 0xF007, 0xF0FF⟩, by decide, rfl, by rw [OpcodeRow.matches, encode, formatR_and]; decide⟩

theorem wkey (x : Reg) : Statement (.wkey x) :=
  ⟨⟨"WKEY", 0xF00A, 0xF0FF⟩, by decide, rfl, by rw [OpcodeRow.matches, encode, formatR_and]; decide⟩

theorem wrdt (x : Reg) : Statement (.wrdt x) :=
  ⟨⟨"WRDT", 0xF015, 0xF0FF⟩, by decide, rfl, by rw [OpcodeRow.matches, encode, formatR_and]; decide⟩

theorem wrst (x : Reg) : Statement (.wrst x) :=
  ⟨⟨"WRST", 0xF018, 0xF0FF⟩, by decide, rfl, by rw [OpcodeRow.matches, encode, formatR_and]; decide⟩

theorem addix (x : Reg) : Statement (.addix x) :=
  ⟨⟨"ADDIX", 0xF01E, 0xF0FF⟩, by decide, rfl, by rw [OpcodeRow.matches, encode, formatR_and]; decide⟩

theorem font (x : Reg) : Statement (.font x) :=
  ⟨⟨"FONT", 0xF029, 0xF0FF⟩, by decide, rfl, by rw [OpcodeRow.matches, encode, formatR_and]; decide⟩

theorem bcd (x : Reg) : Statement (.bcd x) :=
  ⟨⟨"BCD", 0xF033, 0xF0FF⟩, by decide, rfl, by rw [OpcodeRow.matches, encode, formatR_and]; decide⟩

theorem stm (x : Reg) : Statement (.stm x) :=
  ⟨⟨"STM", 0xF055, 0xF0FF⟩, by decide, rfl, by rw [OpcodeRow.matches, encode, formatR_and]; decide⟩

theorem ldm (x : Reg) : Statement (.ldm x) :=
  ⟨⟨"LDM", 0xF065, 0xF0FF⟩, by decide, rfl, by rw [OpcodeRow.matches, encode, formatR_and]; decide⟩

end Sys2Proof.Laws.EncodesItsRow
end

