-- ==== Sys2Proof/Laws/Step.lean ====
section
/-! SUPPORT. The step taken apart once: what a step that completes, or that faults, can have done. -/

namespace Sys2Proof.Machine

theorem finishStep_eq_next {r : Result} {t : State} :
    finishStep r = .next t ↔ ∃ u, r = .next u ∧ t = u.endStep false := by
  cases r <;> simp [finishStep, eq_comm]

theorem finishStep_eq_fault {r : Result} {f : Fault} : finishStep r = .fault f ↔ r = .fault f := by
  cases r <;> simp [finishStep]

/-- A step that can fetch runs the word at `PC` on the ready state. -/
theorem step_of_fetchable {s : State} (h : s.pc.toNat + 1 ≤ 0xFFF) : step s = runWord s.wordAtPc s.ready := by
  have hf : s.fetch = .ok s.wordAtPc := State.fetch_eq_ok.2 ⟨h, rfl⟩
  unfold step
  rw [State.fetch_latchKeys, hf]
  rfl

/-- A step that completes fetched a word and either ran the instruction it decodes to or, for an Unknown word,
did nothing but the end of the step. -/
theorem step_next_cases {s t : State} (h : step s = .next t) :
    ∃ w, s.fetch = .ok w ∧
      ((∃ i u, decode w = .ok i ∧ exec i s.ready = .next u ∧ t = u.endStep false) ∨
       (∃ e, decode w = .error e ∧ t = s.ready.endStep true)) := by
  unfold step at h
  rw [State.fetch_latchKeys] at h
  split at h
  · next w hw =>
    refine ⟨w, hw, ?_⟩
    unfold runWord at h
    split at h
    · next i hi =>
      obtain ⟨u, hu, ht⟩ := finishStep_eq_next.1 h
      exact .inl ⟨i, u, hi, hu, ht⟩
    · next e he =>
      rw [Host.Outcome.next.injEq] at h
      exact .inr ⟨e, he, h.symm⟩
  · simp at h

/-- A step that faults could not fetch, or its instruction faulted. -/
theorem step_fault_cases {s : State} {f : Fault} (h : step s = .fault f) :
    s.fetch = .error f ∨ ∃ w i, s.fetch = .ok w ∧ decode w = .ok i ∧ exec i s.ready = .fault f := by
  unfold step at h
  rw [State.fetch_latchKeys] at h
  split at h
  · next w hw =>
    unfold runWord at h
    split at h
    · next i hi => exact .inr ⟨w, i, hw, hi, finishStep_eq_fault.1 h⟩
    · simp at h
  · next e he =>
    rw [Host.Outcome.fault.injEq] at h
    exact .inl (h ▸ he)

@[simp] theorem State.ready_pc (s : State) : s.ready.pc = s.pc + 2 := rfl
@[simp] theorem State.ready_keys (s : State) : s.ready.keys = s.presentedKeys := rfl
@[simp] theorem State.ready_v (s : State) : s.ready.v = s.v := rfl
@[simp] theorem State.ready_i (s : State) : s.ready.i = s.i := rfl
@[simp] theorem State.ready_stack (s : State) : s.ready.stack = s.stack := rfl
@[simp] theorem State.ready_dt (s : State) : s.ready.dt = s.dt := rfl
@[simp] theorem State.ready_st (s : State) : s.ready.st = s.st := rfl
@[simp] theorem State.ready_fb (s : State) : s.ready.fb = s.fb := rfl
@[simp] theorem State.ready_mem (s : State) : s.ready.mem = s.mem := rfl
@[simp] theorem State.ready_inputs (s : State) : s.ready.inputs = s.inputs := rfl
@[simp] theorem State.ready_stepNo (s : State) : s.ready.stepNo = s.stepNo := rfl
@[simp] theorem State.ready_unknown (s : State) : s.ready.unknown = s.unknown := rfl
@[simp] theorem State.reg_ready (s : State) (r : Reg) : s.ready.reg r = s.reg r := rfl

/-! ### The step as rule R70 writes it -/

@[simp] theorem observed_next (t : State) : observed (.next t) = .next (t.toArchState, t.unknown) := rfl
@[simp] theorem observed_fault (f : Fault) : observed (.fault f) = .fault f := rfl
@[simp] theorem observed_refused (r : Refusal) : observed (.refused r) = .refused r := rfl

/-- What the host observes of a step's end: the tick of the architectural state and the diagnostic bit. -/
theorem observed_endStep (t : State) (u : Bool) :
    observed (.next (t.endStep u)) = .next (t.tick.toArchState, u) := rfl

end Sys2Proof.Machine
end

