-- ==== Sys2Proof/Tests/Slice0.lean ====
section
/-! SUPPORT. The model's own tests: the checks of WellFormed on ill-formed terms, one word of every instruction
written out from the encodings of rule R76, vectors of 95_test_vectors.md (each test names its vector), and
for every statement with hypotheses a witness that meets them. -/

namespace Sys2Proof.Tests

open Sys2Proof.Machine

/-! ### Helpers -/

/-- The reset state with a word at 0x200 and, for the first step, no key down and the random byte 0. -/
def boot (w : Nat) : State := { State.reset.withFetchWord 16 w with inputs := [⟨0, 0⟩] }

/-- The step completes in a state of which `p` holds. -/
def after (s : State) (p : State → Bool) : Bool :=
  match step s with
  | .next t => p t
  | _ => false

/-- The step ends in the fault `f`. -/
def faults (s : State) (f : Fault) : Bool :=
  match step s with
  | .fault g => decide (g = f)
  | _ => false

/-- exec completes in a state of which `p` holds. -/
def execAfter (i : Instr) (s : State) (p : State → Bool) : Bool :=
  match exec i s with
  | .next t => p t
  | _ => false

/-- exec ends in a fault. -/
def execFaults (i : Instr) (s : State) (f : Fault) : Bool :=
  match exec i s with
  | .fault g => decide (g = f)
  | _ => false

theorem exists_of_after {s : State} {p : State → Bool} (h : after s p = true) :
    ∃ t, step s = .next t ∧ p t = true := by
  unfold after at h
  split at h
  · next t ht => exact ⟨t, ht, h⟩
  · simp at h

theorem exists_of_execAfter {i : Instr} {s : State} {p : State → Bool} (h : execAfter i s p = true) :
    ∃ t, exec i s = .next t ∧ p t = true := by
  unfold execAfter at h
  split at h
  · next t ht => exact ⟨t, ht, h⟩
  · simp at h

theorem fault_of_execFaults {i : Instr} {s : State} {f : Fault} (h : execFaults i s f = true) :
    exec i s = .fault f := by
  unfold execFaults at h
  split at h
  · next g hg => rw [hg, of_decide_eq_true h]
  · simp at h

/-! ### WellFormed refuses ill-formed terms (rule R78's groups; rule R230) -/

theorem test_illformed_group0 : wordWellFormed 0x0123 = false := by decide
theorem test_illformed_group5 : wordWellFormed 0x5121 = false := by decide
theorem test_illformed_group8 : wordWellFormed 0x8AB8 = false := by decide
theorem test_illformed_group9 : wordWellFormed 0x9121 = false := by decide
theorem test_illformed_groupE : wordWellFormed 0xE29F = false := by decide
theorem test_illformed_groupF : wordWellFormed 0xF066 = false := by decide
theorem test_wellformed_word : wordWellFormed 0x8ABE = true := by decide
theorem test_illformed_rom : romWellFormed (List.replicate 3585 0) = false := by
  rw [romWellFormed, List.length_replicate]; rfl
theorem test_wellformed_rom : romWellFormed (List.replicate 3584 0) = true := by
  rw [romWellFormed, List.length_replicate]; rfl

/-! ### Decoding: a word of every instruction, bit by bit from rule R76 -/

theorem test_decode_cls : decode 0b0000_0000_1110_0000 = .ok (.cls) := by decide
theorem test_decode_ret : decode 0b0000_0000_1110_1110 = .ok (.ret) := by decide
theorem test_decode_jp : decode 0b0001_1010_1011_1100 = .ok (.jp 0xABC) := by decide
theorem test_decode_call : decode 0b0010_0011_0000_0001 = .ok (.call 0x301) := by decide
theorem test_decode_sei : decode 0b0011_1010_0111_1111 = .ok (.sei 10 0x7F) := by decide
theorem test_decode_snei : decode 0b0100_0011_0001_0001 = .ok (.snei 3 0x11) := by decide
theorem test_decode_ser : decode 0b0101_0001_0010_0000 = .ok (.ser 1 2) := by decide
theorem test_decode_ldi : decode 0b0110_1111_1010_1011 = .ok (.ldi 15 0xAB) := by decide
theorem test_decode_addi : decode 0b0111_0000_1111_1111 = .ok (.addi 0 0xFF) := by decide
theorem test_decode_mov : decode 0b1000_0001_0010_0000 = .ok (.mov 1 2) := by decide
theorem test_decode_or : decode 0b1000_0001_0010_0001 = .ok (.or 1 2) := by decide
theorem test_decode_and : decode 0b1000_0001_0010_0010 = .ok (.and 1 2) := by decide
theorem test_decode_xor : decode 0b1000_0001_0010_0011 = .ok (.xor 1 2) := by decide
theorem test_decode_add : decode 0b1000_1010_1011_0100 = .ok (.add 10 11) := by decide
theorem test_decode_sub : decode 0b1000_0001_0010_0101 = .ok (.sub 1 2) := by decide
theorem test_decode_shr : decode 0b1000_0001_0010_0110 = .ok (.shr 1 2) := by decide
theorem test_decode_subn : decode 0b1000_0001_0010_0111 = .ok (.subn 1 2) := by decide
theorem test_decode_shl : decode 0b1000_1010_1011_1110 = .ok (.shl 10 11) := by decide
theorem test_decode_sner : decode 0b1001_0001_0010_0000 = .ok (.sner 1 2) := by decide
theorem test_decode_ldix : decode 0b1010_0011_0000_0000 = .ok (.ldix 0x300) := by decide
theorem test_decode_jpv0 : decode 0b1011_1111_1111_1111 = .ok (.jpv0 0xFFF) := by decide
theorem test_decode_rnd : decode 0b1100_0011_0000_1111 = .ok (.rnd 3 0x0F) := by decide
theorem test_decode_drw : decode 0b1101_0001_0010_0011 = .ok (.drw 1 2 3) := by decide
theorem test_decode_skp : decode 0b1110_0010_1001_1110 = .ok (.skp 2) := by decide
theorem test_decode_sknp : decode 0b1110_0010_1010_0001 = .ok (.sknp 2) := by decide
theorem test_decode_rddt : decode 0b1111_0011_0000_0111 = .ok (.rddt 3) := by decide
theorem test_decode_wkey : decode 0b1111_1111_0000_1010 = .ok (.wkey 15) := by decide
theorem test_decode_wrdt : decode 0b1111_0000_0001_0101 = .ok (.wrdt 0) := by decide
theorem test_decode_wrst : decode 0b1111_0100_0001_1000 = .ok (.wrst 4) := by decide
theorem test_decode_addix : decode 0b1111_0010_0001_1110 = .ok (.addix 2) := by decide
theorem test_decode_font : decode 0b1111_0000_0010_1001 = .ok (.font 0) := by decide
theorem test_decode_bcd : decode 0b1111_0000_0011_0011 = .ok (.bcd 0) := by decide
theorem test_decode_stm : decode 0b1111_0010_0101_0101 = .ok (.stm 2) := by decide
theorem test_decode_ldm : decode 0b1111_0000_0110_0101 = .ok (.ldm 0) := by decide

/-! ### Decoding: Unknown words of the decode vectors, and bytes -/

theorem test_unknown_0000 : decode 0x0000 = .error .group0 := by decide       -- T-ENC-3
theorem test_unknown_00E1 : decode 0x00E1 = .error .group0 := by decide       -- T-ENC-4
theorem test_unknown_01E0 : decode 0x01E0 = .error .group0 := by decide       -- T-ENC-5
theorem test_unknown_5121 : decode 0x5121 = .error .group5 := by decide       -- T-ENC-10
theorem test_unknown_8ABF : decode 0x8ABF = .error .group8 := by decide       -- T-ENC-13
theorem test_unknown_9121 : decode 0x9121 = .error .group9 := by decide       -- T-ENC-15
theorem test_unknown_E09D : decode 0xE09D = .error .groupE := by decide       -- T-ENC-19
theorem test_unknown_F066 : decode 0xF066 = .error .groupF := by decide       -- T-ENC-21
theorem test_bytes_in_program_order : decodeBytes [0x60, 0x05, 0x61] = .ok (.ldi 0 5, [0x61]) := by decide  -- S12
theorem test_one_byte_is_truncated : decodeBytes [0x60] = .error .truncated := by decide                   -- R79

/-! ### Control flow (95_test_vectors.md 2.2) -/

theorem test_ret : after { boot 0x00EE with stack := [0x206] } (fun t => t.pc == 0x206 && t.stack == []) := by
  decide                                                                        -- T-CF-1
theorem test_ret_empty : faults { boot 0x00EE with dt := 5 } .stackUnderflow := by decide      -- T-CF-2, T-FLT-7
theorem test_jp_odd : after (boot 0x1201) (fun t => t.pc == 0x201) := by decide                -- T-CF-5
theorem test_jp_self : after { boot 0x1200 with dt := 0xFF } (fun t => t.pc == 0x200 && t.dt == 0xFE) := by
  decide                                                                        -- T-TMR-9
theorem test_call : after { boot 0x2300 with stack := List.replicate 15 0x202 }
    (fun t => t.pc == 0x300 && t.stack == List.replicate 16 0x202) := by decide  -- T-CF-7
theorem test_call_full : faults { boot 0x2300 with stack := List.replicate 16 0x202 } .stackOverflow := by
  decide                                                                        -- T-CF-8
theorem test_sei_skips : after (boot 0x3000) (fun t => t.pc == 0x204) := by decide             -- T-CF-10
theorem test_sei_stays : after ((boot 0x3000).setReg 0 4) (fun t => t.pc == 0x202) := by decide -- T-CF-11
theorem test_snei_skips : after ((boot 0x4311).setReg 3 0x10) (fun t => t.pc == 0x204) := by decide -- T-CF-13
theorem test_snei_stays : after ((boot 0x4310).setReg 3 0x10) (fun t => t.pc == 0x202) := by decide -- T-CF-14
theorem test_ser_skips : after (((boot 0x5120).setReg 1 7).setReg 2 7) (fun t => t.pc == 0x204) := by decide -- T-CF-15
theorem test_ser_stays : after (((boot 0x5120).setReg 1 7).setReg 2 8) (fun t => t.pc == 0x202) := by decide -- T-CF-16
theorem test_sner_skips : after (((boot 0x9120).setReg 1 7).setReg 2 8) (fun t => t.pc == 0x204) := by decide -- T-CF-19
theorem test_sner_stays : after (((boot 0x9120).setReg 1 7).setReg 2 7) (fun t => t.pc == 0x202) := by decide -- T-CF-20
theorem test_jpv0 : after ((boot 0xB300).setReg 0 4) (fun t => t.pc == 0x304) := by decide     -- T-CF-22
theorem test_jpv0_top : after ((boot 0xBFFF).setReg 0 0xFF) (fun t => t.pc == 0x10FE) := by decide -- T-CF-23

/-! ### Load and ALU (95_test_vectors.md 2.3) -/

theorem test_ldi_vf : after (boot 0x6FAB) (fun t => t.reg 15 == 0xAB) := by decide             -- T-ALU-2
theorem test_addi_wraps : after ((boot 0x7001).setReg 0 0xFF) (fun t => t.reg 0 == 0 && t.reg 15 == 0) := by
  decide                                                                        -- T-ALU-4
theorem test_addi_vf : after ((boot 0x7F02).setReg 15 0xFF) (fun t => t.reg 15 == 1) := by decide -- T-ALU-5
theorem test_mov : after ((boot 0x8120).setReg 2 0x7A) (fun t => t.reg 1 == 0x7A) := by decide  -- T-ALU-33
theorem test_or : after ((((boot 0x8121).setReg 1 0x0F).setReg 2 0xF0).setReg 15 1)
    (fun t => t.reg 1 == 0xFF && t.reg 15 == 1) := by decide                     -- T-ALU-34
theorem test_and : after ((((boot 0x8122).setReg 1 0x3C).setReg 2 0xF0).setReg 15 1)
    (fun t => t.reg 1 == 0x30 && t.reg 15 == 1) := by decide                     -- T-ALU-35
theorem test_xor : after ((((boot 0x8123).setReg 1 0x3C).setReg 2 0xF0).setReg 15 1)
    (fun t => t.reg 1 == 0xCC && t.reg 15 == 1) := by decide                     -- T-ALU-36
theorem test_add_carry : after (((boot 0x8124).setReg 1 0xFF).setReg 2 0x01)
    (fun t => t.reg 1 == 0 && t.reg 15 == 1) := by decide                        -- T-ALU-7
theorem test_add_to_vf : after (((boot 0x8F14).setReg 15 0x10).setReg 1 0x20) (fun t => t.reg 15 == 0) := by
  decide                                                                        -- T-ALU-11b
theorem test_sub_borrow : after (((boot 0x8125).setReg 1 0x10).setReg 2 0x20)
    (fun t => t.reg 1 == 0xF0 && t.reg 15 == 0) := by decide                     -- T-ALU-13
theorem test_sub_equal : after (((boot 0x8125).setReg 1 0x33).setReg 2 0x33)
    (fun t => t.reg 1 == 0 && t.reg 15 == 1) := by decide                        -- T-ALU-15
theorem test_shr : after (((boot 0x8126).setReg 1 0xFF).setReg 2 0x10)
    (fun t => t.reg 1 == 0x7F && t.reg 2 == 0x10 && t.reg 15 == 1) := by decide  -- T-ALU-20
theorem test_shr_vf : after ((boot 0x8F06).setReg 15 2) (fun t => t.reg 15 == 0) := by decide   -- T-ALU-23
theorem test_subn : after (((boot 0x8127).setReg 1 0x20).setReg 2 0x10)
    (fun t => t.reg 1 == 0xF0 && t.reg 15 == 0) := by decide                     -- T-ALU-25
theorem test_subn_vf : after (((boot 0x8F17).setReg 15 3).setReg 1 5) (fun t => t.reg 15 == 1) := by decide -- T-ALU-27
theorem test_shl : after (((boot 0x812E).setReg 1 0x7F).setReg 2 0xAA)
    (fun t => t.reg 1 == 0xFE && t.reg 2 == 0xAA && t.reg 15 == 0) := by decide  -- T-ALU-31
theorem test_shl_out : after ((boot 0x810E).setReg 1 0x81) (fun t => t.reg 1 == 2 && t.reg 15 == 1) := by
  decide                                                                        -- T-ALU-28
theorem test_rnd : after { boot 0xC30F with inputs := [⟨0, 0xA7⟩] } (fun t => t.reg 3 == 0x07) := by
  decide                                                                        -- T-ALU-38

/-! ### Index and memory (95_test_vectors.md 2.4) -/

theorem test_ldix : after (boot 0xAFFF) (fun t => t.i == 0xFFF) := by decide                    -- T-MEM-2
theorem test_addix : after ((boot 0xF21E).setReg 2 1 |>.setI 0xFFF) (fun t => t.i == 0x1000) := by decide -- T-MEM-4
theorem test_addix_wraps : after ((boot 0xF21E).setReg 2 1 |>.setI 0xFFFF) (fun t => t.i == 0) := by decide -- T-MEM-5
theorem test_font : after ((boot 0xF029).setReg 0 0x0A) (fun t => t.i == 0x082) := by decide    -- T-MEM-8
theorem test_font_no_mask : after ((boot 0xF029).setReg 0 0xFF) (fun t => t.i == 0x54B) := by decide -- T-MEM-11
theorem test_bcd : after ((boot 0xF033).setReg 0 156 |>.setI 0x300)
    (fun t => t.mem.readBytes 0x300 3 == [1, 5, 6]) := by decide                 -- T-MEM-12
theorem test_bcd_top : faults ((boot 0xF033).setReg 0 199 |>.setI 0xFFE) (.memoryOutOfBounds 0x1000) := by
  decide                                                                        -- T-MEM-17
theorem test_stm : after ((((boot 0xF255).setReg 0 1).setReg 1 2).setReg 2 3 |>.setReg 3 4 |>.setI 0x400)
    (fun t => t.mem.readBytes 0x400 4 == [1, 2, 3, 0] && t.i == 0x400) := by decide  -- T-MEM-18
theorem test_stm_top : faults ((boot 0xF155).setI 0xFFF) (.memoryOutOfBounds 0x1000) := by decide -- T-MEM-20
theorem test_ldm_font : after ((boot 0xFF65).setI 0x050)
    (fun t => t.v.toList == [0xF0, 0x90, 0x90, 0x90, 0xF0, 0x20, 0x60, 0x20, 0x20, 0x70, 0xF0, 0x10, 0xF0, 0x80,
      0xF0, 0xF0]) := by decide                                                  -- T-MEM-29
theorem test_ldm_above : faults ((boot 0xF065).setI 0x1000) (.memoryOutOfBounds 0x1000) := by decide -- T-MEM-26

/-! ### Display (95_test_vectors.md 2.5) -/

/-- The lit cells of a framebuffer, row by row. -/
def litCells (f : Framebuffer) : List (Nat × Nat) :=
  (List.finRange 32).flatMap fun py =>
    ((List.finRange 64).filter fun px => f.cell px py).map fun px => (px.val, py.val)

theorem test_cls : after ((boot 0x00E0).setFb (Framebuffer.clear.toggle 63 31) |>.setReg 15 1)
    (fun t => decide (t.fb = Framebuffer.clear) && t.reg 15 == 1) := by decide   -- T-DRW-1
theorem test_drw_wraps : after (((boot 0xD012).setReg 0 62).setReg 1 31 |>.setI 0x20E
      |>.setMem ((boot 0xD012).mem.writeBytes 0x20E [0xC3, 0x81]))
    (fun t => litCells t.fb == [(5, 0), (62, 0), (4, 31), (5, 31), (62, 31), (63, 31)] && t.reg 15 == 0) := by
  decide                                                                        -- T-DRW-2
theorem test_drw_collides : after (((boot 0xD011).setFb (Framebuffer.clear.toggle 7 0)).setI 0x300
      |>.setMem ((boot 0xD011).mem.writeBytes 0x300 [0xFF]))
    (fun t => litCells t.fb == [(0, 0), (1, 0), (2, 0), (3, 0), (4, 0), (5, 0), (6, 0)] && t.reg 15 == 1) := by
  decide                                                                        -- T-DRW-4

/-! ### Keys and timers (95_test_vectors.md 2.6) -/

/-- A word at 0x200 with a key vector presented to the first step. -/
def bootKeys (w : Nat) (keys : BitVec 16) : State := { boot w with inputs := [⟨keys, 0⟩] }

theorem test_skp : after ((bootKeys 0xE29E 0x0400).setReg 2 10) (fun t => t.pc == 0x204) := by decide -- T-KEY-1
theorem test_skp_range : faults ((bootKeys 0xE29E 0x0001).setReg 2 0x10) (.keyIndexOutOfRange 0x10) := by
  decide                                                                        -- T-KEY-5
theorem test_sknp : after ((bootKeys 0xE2A1 0).setReg 2 10) (fun t => t.pc == 0x204) := by decide  -- T-KEY-3
theorem test_sknp_down : after ((bootKeys 0xE2A1 0x0400).setReg 2 10) (fun t => t.pc == 0x202) := by
  decide                                                                        -- T-KEY-4
theorem test_wkey_waits : after { bootKeys 0xF10A 0 with dt := 5, st := 1 }
    (fun t => t.pc == 0x200 && t.reg 1 == 0 && t.dt == 4 && t.st == 0) := by decide  -- T-KEY-8
theorem test_wkey : after (bootKeys 0xF10A 0x0080) (fun t => t.reg 1 == 7 && t.pc == 0x202) := by decide -- T-KEY-9
theorem test_rddt : after { boot 0xF307 with dt := 9 } (fun t => t.reg 3 == 9 && t.dt == 8) := by decide -- T-TMR-1
theorem test_wrdt : after ((boot 0xF015).setReg 0 3) (fun t => t.dt == 2) := by decide           -- T-TMR-3
theorem test_wrdt_zero : after { boot 0xF015 with dt := 7 } (fun t => t.dt == 0) := by decide    -- T-TMR-4
theorem test_wrst : after ((boot 0xF418).setReg 4 0x20) (fun t => t.st == 0x1F) := by decide     -- T-TMR-6
theorem test_wrst_one : after ((boot 0xF418).setReg 4 1) (fun t => t.st == 0) := by decide       -- T-TMR-7

/-! ### Faults, fetch and reset (95_test_vectors.md 2.7) -/

theorem test_fetch_top : faults (State.reset.setPc 0xFFF) (.fetchOutOfBounds 0xFFF) := by decide -- T-FLT-1
theorem test_unknown_steps : after { State.reset with dt := 2, st := 1 }
    (fun t => t.unknown && t.pc == 0x202 && t.dt == 1 && t.st == 0) := by decide  -- T-TMR-8
theorem test_load_one_byte :
    (match load [0xAB] (boot 0x00E0) with
      | .next t => decide (t.wordAtPc = 0xAB00) && decide (t.pc = 0x200)
      | _ => false) = true := by decide                                          -- T-RST-5
theorem test_load_too_long : (match load (List.replicate 3585 0) State.reset with
      | .fault f => decide (f = .loadError 3585)
      | _ => false) = true := by
  rw [load, test_illformed_rom, List.length_replicate]
  decide                                                                        -- T-RST-2
theorem test_host_view_bit :
    (State.reset.setFb (Framebuffer.clear.toggle 3 2)).hostView.fb.getLsbD 131 = true := by
  simp only [State.hostView, Framebuffer.port, BitVec.getLsbD_ofFnLE]
  decide                                                                        -- R217, D12: bit 2 * 64 + 3
theorem test_memory_write_removes : (Memory.write [(0x300, 7)] 0x300 0) = [] := by decide        -- canonical form
theorem test_reset_font_glyph : State.reset.mem.readBytes 0x09B 5 = [0xF0, 0x80, 0xF0, 0x80, 0x80] := by
  decide                                                                        -- R33: glyph F

/-! ### Witnesses: for each statement with hypotheses, data that meet them, clause by clause -/

theorem witness_LoadPlacesTheProgram : (List.replicate 3584 (1 : Byte)).length ≤ 3584 := by
  rw [List.length_replicate]
theorem witness_LoadOfTooLongImageFails : 3584 < (List.replicate 3585 (1 : Byte)).length := by
  rw [List.length_replicate]; omega
theorem witness_EncodeInvertsDecode : decode 0xFF65 = .ok (.ldm 15) := by decide
theorem witness_RejectedWords : decode 0x0FFF = .error .group0 ∧ decode 0x5FFF = .error .group5 ∧
    decode 0x800D = .error .group8 ∧ decode 0x9001 = .error .group9 ∧ decode 0xE000 = .error .groupE ∧
    decode 0xFFFF = .error .groupF := by decide
theorem witness_DecoderFollowsTheOpcodeMap : rowsOf 0x8001 = [⟨"OR", 0x8001, 0xF00F⟩] ∧ rowsOf 0x8008 = [] := by
  decide
theorem witness_StepRunsTheDecodedInstruction :
    (boot 0x6005).pc.toNat + 1 ≤ 0xFFF ∧ decode (boot 0x6005).wordAtPc = .ok (.ldi 0 5) ∧
    (∃ u, exec (.ldi 0 5) { boot 0x6005 with keys := (boot 0x6005).presentedKeys, pc := (boot 0x6005).pc + 2 } =
      .next u) ∧
    decode (boot 0x00EE).wordAtPc = .ok .ret ∧
    exec .ret { boot 0x00EE with keys := (boot 0x00EE).presentedKeys, pc := (boot 0x00EE).pc + 2 } =
      .fault .stackUnderflow := ⟨by decide, by decide, ⟨_, rfl⟩, by decide, rfl⟩
theorem witness_FetchPastTheTopFaults :
    0xFFF ≤ (State.reset.setPc 0xFFF).pc.toNat ∧ (State.reset.setPc 0xFFE).pc.toNat ≤ 0xFFE := by decide
theorem witness_UnknownWordIsANoOp :
    (State.reset.setPc 0xFFE).pc.toNat + 1 ≤ 0xFFF ∧ decode (State.reset.setPc 0xFFE).wordAtPc = .error .group0 := by
  decide
theorem witness_TimersTick_wrdt : (∃ t, step (boot 0xF015) = .next t ∧ true = true) ∧
    decode (boot 0xF015).wordAtPc = .ok (.wrdt 0) :=
  ⟨exists_of_after (p := fun _ => true) (by decide), by decide⟩
theorem witness_TimersTick_wrst : (∃ t, step (boot 0xF418) = .next t ∧ true = true) ∧
    decode (boot 0xF418).wordAtPc = .ok (.wrst 4) :=
  ⟨exists_of_after (p := fun _ => true) (by decide), by decide⟩
theorem witness_TimersTick_rddt : (∃ t, step (boot 0xF307) = .next t ∧ true = true) ∧
    decode (boot 0xF307).wordAtPc = .ok (.rddt 3) :=
  ⟨exists_of_after (p := fun _ => true) (by decide), by decide⟩
theorem witness_TimersTick_other : (∃ t, step State.reset = .next t ∧ true = true) ∧
    decode State.reset.wordAtPc = .error .group0 :=
  ⟨exists_of_after (p := fun _ => true) (by decide), by decide⟩
theorem witness_PresentedInputsReachTheStep : (boot 0x6005).inputs = ⟨0, 0⟩ :: [] ∧
    ∃ t, step (boot 0x6005) = .next t ∧ true = true :=
  ⟨by decide, exists_of_after (p := fun _ => true) (by decide)⟩
theorem witness_FreeInputsReachTheStep : State.reset.inputs = [] ∧
    ∃ t, step State.reset = .next t ∧ true = true :=
  ⟨rfl, exists_of_after (p := fun _ => true) (by decide)⟩
theorem witness_KeysReachOnlyKeyInstructions : Instr.cls.readsKeys = false := rfl
theorem witness_RandomByteReachesOnlyRnd : ∀ x kk, Instr.cls ≠ .rnd x kk := by simp
theorem witness_EachComponentHasItsWriters : (∃ t, exec (.ldi 0 1) State.reset = .next t) ∧
    Instr.writesPc (.ldi 0 1) = false ∧ Instr.writesI (.ldi 0 1) = false ∧ Instr.writesStack (.ldi 0 1) = false ∧
    Instr.writesDt (.ldi 0 1) = false ∧ Instr.writesSt (.ldi 0 1) = false ∧ Instr.writesFb (.ldi 0 1) = false ∧
    Instr.writesMem (.ldi 0 1) = false := ⟨⟨_, rfl⟩, rfl, rfl, rfl, rfl, rfl, rfl, rfl⟩
theorem witness_OtherRegistersAreUnchanged : (∃ t, exec (.add 1 2) State.reset = .next t) ∧
    Instr.mayWrite (.add 1 2) 3 = false ∧ ((3 : Reg) ≠ 15 ∨ Instr.isFlagWriter (.add 1 2) = false) :=
  ⟨⟨_, rfl⟩, by decide, by decide⟩
theorem witness_SixInstructionsWriteVF : (∃ t, exec (.add 15 2) State.reset = .next t) ∧
    Instr.isFlagWriter (.add 15 2) = true ∧ (∃ t, exec (.or 1 2) State.reset = .next t) ∧
    Instr.isFlagWriter (.or 1 2) = false ∧ Instr.mayWrite (.or 1 2) 15 = false :=
  ⟨⟨_, rfl⟩, rfl, ⟨_, rfl⟩, rfl, by decide⟩
theorem witness_InstructionsFault_stack : exec .ret State.reset = .fault .stackUnderflow ∧
    exec (.call 0) (State.reset.setStack (List.replicate 16 2)) = .fault .stackOverflow :=
  ⟨rfl, fault_of_execFaults (by decide)⟩
theorem witness_InstructionsFault_memory :
    exec (.drw 0 1 1) (State.reset.setI 0x1000) = .fault (.memoryOutOfBounds 0x1000) ∧
    exec (.bcd 0) (State.reset.setI 0xFFE) = .fault (.memoryOutOfBounds 0x1000) ∧
    exec (.stm 1) (State.reset.setI 0xFFF) = .fault (.memoryOutOfBounds 0x1000) ∧
    exec (.ldm 1) (State.reset.setI 0xFFF) = .fault (.memoryOutOfBounds 0x1000) :=
  ⟨fault_of_execFaults (by decide), fault_of_execFaults (by decide), fault_of_execFaults (by decide),
    fault_of_execFaults (by decide)⟩
theorem witness_InstructionsFault_keys :
    exec (.skp 2) (State.reset.setReg 2 16) = .fault (.keyIndexOutOfRange 16) ∧
    exec (.sknp 2) (State.reset.setReg 2 16) = .fault (.keyIndexOutOfRange 16) :=
  ⟨fault_of_execFaults (by decide), fault_of_execFaults (by decide)⟩
theorem witness_RetPopsThePC : State.reset.stack = [] ∧ (State.reset.setStack [0x206]).stack = 0x206 :: [] := by
  decide
theorem witness_CallPushesTheReturnAddress : (State.reset.setStack (List.replicate 16 2)).stack.length = 16 ∧
    (State.reset.setStack (List.replicate 15 2)).stack.length < 16 := by decide

/-- CALL 0x300 at 0x200 and RET at 0x300. -/
def callRet : State := (boot 0x2300).setMem ((boot 0x2300).mem.writeBytes 0x300 [0x00, 0xEE])

theorem witness_CallThenRet : callRet.pc.toNat + 1 ≤ 0xFFF ∧ decode callRet.wordAtPc = .ok (.call 0x300) ∧
    (0x300 : BitVec 12).toNat + 1 ≤ 0xFFF ∧ callRet.mem.read (0x300 : BitVec 12).toNat = 0x00 ∧
    callRet.mem.read ((0x300 : BitVec 12).toNat + 1) = 0xEE ∧ callRet.stack.length < 16 := by decide
theorem witness_ImmediateSkips : (State.reset.reg 0).toNat = (0 : Byte).toNat ∧
    (State.reset.reg 0).toNat ≠ (1 : Byte).toNat := by decide
theorem witness_RegisterSkips : (State.reset.reg 0).toNat = (State.reset.reg 1).toNat ∧
    ((State.reset.setReg 1 1).reg 0).toNat ≠ ((State.reset.setReg 1 1).reg 1).toNat := by decide
theorem witness_destination_not_VF : (14 : Reg) ≠ 15 ∧ (0 : Reg) ≠ 14 ∧ (0 : Reg) ≠ 15 := by decide
theorem witness_RndMasks : (0x0F : Byte).getLsbD 7 = false ∧ (0x0F : Byte).getLsbD 0 = true ∧
    (boot 0xC30F).inputs = ⟨0, 0⟩ :: [] := by decide
theorem witness_BcdStoresThreeDigits : 0xFFF < (State.reset.setI 0xFFE).i.toNat + 2 ∧
    (State.reset.setI 0xFFD).i.toNat + 2 ≤ 0xFFF ∧ (State.reset.setI 0xFFD).mem.wf := by decide
theorem witness_StmStoresTheBlock : 0xFFF < (State.reset.setI 0xFFF).i.toNat + (1 : Reg).val ∧
    (State.reset.setI 0xFFF).i.toNat + (0 : Reg).val ≤ 0xFFF ∧ (State.reset.setI 0xFFF).mem.wf := by decide
theorem witness_LdmLoadsTheBlock : 0xFFF < (State.reset.setI 0xFF1).i.toNat + (15 : Reg).val ∧
    (State.reset.setI 0xFF0).i.toNat + (15 : Reg).val ≤ 0xFFF := by decide
theorem witness_StoreThenLoad : (State.reset.setI 0xFF0).i.toNat + (15 : Reg).val ≤ 0xFFF ∧
    (State.reset.setI 0xFF0).mem.wf := by decide
theorem witness_StoredBytesAreFetchedNext : (0 + 1 < 16) ∧ ((boot 0xF155).setI 0x202).mem.wf ∧
    ((boot 0xF155).setI 0x202).pc.toNat + 1 ≤ 0xFFF ∧
    decode ((boot 0xF155).setI 0x202).wordAtPc = .ok (.stm 1) ∧
    ((boot 0xF155).setI 0x202).i.toNat + (1 : Reg).val ≤ 0xFFF ∧ 0 + 1 ≤ (1 : Reg).val ∧
    ((boot 0xF155).setI 0x202).pc.toNat + 2 = ((boot 0xF155).setI 0x202).i.toNat + 0 := by decide
theorem witness_DrwXorsTheSprite : (1 ≤ (1 : BitVec 4).toNat ∧
      0xFFF < (State.reset.setI 0x1000).i.toNat + (1 : BitVec 4).toNat - 1) ∧
    (0 : BitVec 4).toNat = 0 ∧ (State.reset.setI 0xFF1).i.toNat + (15 : BitVec 4).toNat - 1 ≤ 0xFFF := by decide

/-- The default glyph 0 at the corner: its first row covers cell (0, 0) and not cell (4, 0). -/
theorem witness_Covered : (State.reset.setI 0x050).Covered 0 1 1 0 0 ∧ ¬ (State.reset.setI 0x050).Covered 0 1 1 4 0 :=
  ⟨⟨0, by decide, 0, by decide, by decide, by decide, by decide⟩, by unfold State.Covered; decide⟩
theorem witness_DrwCollision : (State.reset.setI 0x050).Covered 0 1 1 0 0 ∧
    ((State.reset.setI 0x050).setFb (Framebuffer.clear.toggle 0 0)).fb.cell 0 0 = true ∧
    (State.reset.setI 0x050).fb.cell 0 0 = false := ⟨witness_Covered.1, by decide, by decide⟩
theorem witness_DrawingTwice : (0 : Reg) ≠ 15 ∧ (1 : Reg) ≠ 15 ∧
    ∃ t, exec (.drw 0 1 5) (State.reset.setI 0x050) = .next t ∧ true = true :=
  ⟨by decide, by decide, exists_of_execAfter (p := fun _ => true) (by decide)⟩
theorem witness_KeySkips : 15 < ((State.reset.setReg 2 16).reg 2).toNat ∧
    (((State.reset.setReg 2 15).setKeys 0x8000).reg 2).toNat ≤ 15 ∧
    ((State.reset.setReg 2 15).setKeys 0x8000).keys.getLsbD 15 = true ∧
    (State.reset.setReg 2 15).keys.getLsbD 15 = false := by decide
theorem witness_WkeyWaits : (∀ k < 16, State.reset.keys.getLsbD k = false) ∧
    (∃ k < 16, (State.reset.setKeys 0x8000).keys.getLsbD k = true) := by decide
theorem witness_WaitingWkeyStepRepeats : (boot 0xF10A).pc.toNat + 1 ≤ 0xFFF ∧
    decode (boot 0xF10A).wordAtPc = .ok (.wkey 1) ∧ (boot 0xF10A).presentedKeys = 0 := by decide
theorem witness_ParkedStateStaysParked : (boot 0x1200).Parked := ⟨by decide, 0x200, by decide, by decide⟩
theorem witness_LoadSatisfiesTheInvariant : ∃ t, load [0x12, 0x00] State.reset = .next t := ⟨_, rfl⟩
theorem witness_StepKeepsTheInvariant : (boot 0x2300).Inv ∧ ∃ t, step (boot 0x2300) = .next t ∧ true = true := by
  refine ⟨⟨by decide, by decide, fun a ha => ?_, by decide⟩, exists_of_after (p := fun _ => true) (by decide)⟩
  exact absurd (show a ∈ ([] : List Word) from ha) List.not_mem_nil

end Sys2Proof.Tests
end

section
/-! What a completed instruction can have done, said once: the kinds of effect an instruction has, each with what
the terms of rule R20's "written by" column say of the instructions that have it. -/

namespace Sys2Proof.Machine

/-- The states that executing `i` on `s` can answer, by kind of effect. A new `PC` that is neither a skip nor
WKEY's way back is bounded here, and so is a block of bytes that is stored. -/
inductive ExecEffect (i : Instr) (s : State) : State → Prop
  /-- One register, not as a flag. -/
  | reg {x : Reg} {b : Byte} (hf : i.isFlagWriter = false) (hx : i.mayWrite x = true) :
      ExecEffect i s (s.setReg x b)
  /-- A result and then the flag (R23). -/
  | regFlag {x : Reg} {b : Byte} {c : Bool} (hf : i.isFlagWriter = true) (hx : i.mayWrite x = true) :
      ExecEffect i s (s.setRegThenVF x b c)
  /-- The block load of LDM. -/
  | regs {v : Vector Byte 16} (hf : i.isFlagWriter = false) (hv : ∀ r, i.mayWrite r = false → v[r] = s.reg r) :
      ExecEffect i s (s.setV v)
  | jump {a : Word} (hf : i.isFlagWriter = false) (hpc : i.writesPc = true) (ha : a.toNat ≤ 0x10FE) :
      ExecEffect i s (s.setPc a)
  | skip (hf : i.isFlagWriter = false) (hpc : i.writesPc = true) (c : Bool) : ExecEffect i s (s.skipIf c)
  /-- WKEY with no key down. -/
  | wait (hf : i.isFlagWriter = false) (hpc : i.writesPc = true) : ExecEffect i s (s.setPc (s.pc - 2))
  | push (hf : i.isFlagWriter = false) (hpc : i.writesPc = true) (hk : i.writesStack = true)
      (hlen : s.stack.length < 16) (nnn : BitVec 12) :
      ExecEffect i s ((s.setStack (s.pc :: s.stack)).setPc (addrOperand nnn))
  | pop {a : Word} {rest : List Word} (hf : i.isFlagWriter = false) (hpc : i.writesPc = true)
      (hk : i.writesStack = true) (hs : s.stack = a :: rest) : ExecEffect i s ((s.setStack rest).setPc a)
  | index (hf : i.isFlagWriter = false) (hi : i.writesI = true) (a : Word) : ExecEffect i s (s.setI a)
  | delay (hf : i.isFlagWriter = false) (hd : i.writesDt = true) (b : Byte) : ExecEffect i s (s.setDt b)
  | sound (hf : i.isFlagWriter = false) (hd : i.writesSt = true) (b : Byte) : ExecEffect i s (s.setSt b)
  | clear (hf : i.isFlagWriter = false) (hfb : i.writesFb = true) : ExecEffect i s (s.setFb Framebuffer.clear)
  | draw (hf : i.isFlagWriter = true) (hfb : i.writesFb = true) (f : Framebuffer) (c : Bool) :
      ExecEffect i s ((s.setFb f).setVF c)
  | store {a : Nat} {bs : List Byte} (hf : i.isFlagWriter = false) (hm : i.writesMem = true)
      (hin : a + bs.length ≤ 0x1000) : ExecEffect i s (s.setMem (s.mem.writeBytes a bs))

theorem addrOperand_toNat_le (nnn : BitVec 12) : (addrOperand nnn).toNat ≤ 0x10FE := by
  have := nnn.isLt
  rw [addrOperand_toNat]
  omega

/-- The furthest a jump reaches is 0xFF + 0xFFF (R25, R108). -/
theorem jpv0Target_toNat_le (b : Byte) (nnn : BitVec 12) :
    (BitVec.ofNat 16 (b.toNat + nnn.toNat)).toNat ≤ 0x10FE := by
  have hb := b.isLt
  have hn := nnn.isLt
  rw [BitVec.toNat_ofNat]
  omega

/-- A register that LDM does not name is loaded with its own value. -/
theorem State.getElem_loadedRegs_of_not_le (s : State) {x r : Reg} (h : decide (r ≤ x) = false) :
    (s.loadedRegs x)[r] = s.reg r := by
  rw [State.getElem_loadedRegs, if_neg (of_decide_eq_false h)]

/-- Every completed instruction has one of the effects, by what its arm of `exec` does. -/
theorem exec_effect {i : Instr} {s t : State} (h : exec i s = .next t) : ExecEffect i s t := by
  cases i with
  | cls => cases h; exact .clear rfl rfl
  | ret =>
    obtain ⟨a, rest, hs, rfl⟩ := popAndJump_eq_next.1 h
    exact .pop rfl rfl rfl hs
  | jp nnn => cases h; exact .jump rfl rfl (addrOperand_toNat_le nnn)
  | call nnn =>
    obtain ⟨hlen, rfl⟩ := pushAndJump_eq_next.1 h
    exact .push rfl rfl rfl hlen nnn
  | sei | snei | ser | sner =>
    cases h
    exact .skip rfl rfl _
  | ldi x | addi x | mov x | or x | and x | xor x | rnd x | rddt x =>
    cases h
    exact .reg rfl (beq_self_eq_true x)
  | add x | sub x | shr x | subn x | shl x =>
    cases h
    exact .regFlag rfl (beq_self_eq_true x)
  | jpv0 nnn => cases h; exact .jump rfl rfl (jpv0Target_toNat_le _ nnn)
  | drw x y n =>
    obtain ⟨-, rfl⟩ := checkRange_eq_next.1 h
    exact .draw rfl rfl _ _
  | skp x =>
    rw [exec, execSkp, withKey_eq_next] at h
    obtain ⟨-, rfl⟩ := h
    exact .skip rfl rfl _
  | sknp x =>
    rw [exec, execSknp, withKey_eq_next] at h
    obtain ⟨-, rfl⟩ := h
    exact .skip rfl rfl _
  | wkey x =>
    cases h
    split
    · exact .wait rfl rfl
    · exact .reg rfl (beq_self_eq_true x)
  | wrdt x => cases h; exact .delay rfl rfl _
  | wrst x => cases h; exact .sound rfl rfl _
  | ldix | addix | font => cases h; exact .index rfl rfl _
  | bcd x =>
    obtain ⟨hin, rfl⟩ := checkRange_eq_next.1 h
    exact .store rfl rfl (hin.resolve_left (by decide))
  | stm x =>
    obtain ⟨hin, rfl⟩ := checkRange_eq_next.1 h
    exact .store rfl rfl (by rw [State.length_regBlock]; omega)
  | ldm x =>
    obtain ⟨-, rfl⟩ := checkRange_eq_next.1 h
    exact .regs rfl fun r hr => s.getElem_loadedRegs_of_not_le hr

end Sys2Proof.Machine
end

section
/-! The invariant of reachable states: reset meets it and every step keeps it. -/

namespace Sys2Proof.Machine

/-- Settles O47: reset has no listed byte, no return address and `PC` 0x200. -/
theorem resetSatisfiesTheInvariant : Obligations.ResetSatisfiesTheInvariant where
  mem_wf := Memory.wf_nil
  stack_depth := Nat.zero_le 16
  stack_entries := fun _ ha => absurd ha List.not_mem_nil
  pc_bound := by decide

/-- A fetched instruction is executed with `PC` from 0x002 to 0x1000. -/
theorem State.ready_pc_bounds {s : State} (h : s.pc.toNat + 1 ≤ 0xFFF) :
    2 ≤ s.ready.pc.toNat ∧ s.ready.pc.toNat ≤ 0x1000 := by
  rw [State.ready_pc]
  bv_omega

theorem State.Inv.ready {s : State} (h : s.Inv) (hpc : s.pc.toNat + 1 ≤ 0xFFF) : s.ready.Inv where
  mem_wf := h.mem_wf
  stack_depth := h.stack_depth
  stack_entries := h.stack_entries
  pc_bound := (State.ready_pc_bounds hpc).2.trans (by decide)

theorem State.Inv.endStep {s : State} (h : s.Inv) (u : Bool) : (s.endStep u).Inv :=
  ⟨h.mem_wf, h.stack_depth, h.stack_entries, h.pc_bound⟩

/-- A new `PC` within its bound keeps the invariant. -/
theorem State.Inv.setPc {s : State} (h : s.Inv) {a : Word} (ha : a.toNat ≤ 0x10FE) : (s.setPc a).Inv :=
  ⟨h.mem_wf, h.stack_depth, h.stack_entries, ha⟩

/-- The advanced `PC` can be pushed while there is room (R103). -/
theorem State.Inv.push {s : State} (h : s.Inv) (hlen : s.stack.length < 16)
    (hpc : 2 ≤ s.pc.toNat ∧ s.pc.toNat ≤ 0x1000) : (s.setStack (s.pc :: s.stack)).Inv where
  mem_wf := h.mem_wf
  stack_depth := hlen
  stack_entries := List.forall_mem_cons.2 ⟨hpc, h.stack_entries⟩
  pc_bound := h.pc_bound

/-- A pop leaves part of the stack and returns to an address that was pushed (R101). -/
theorem State.Inv.pop {s : State} (h : s.Inv) {a : Word} {rest : List Word} (hs : s.stack = a :: rest) :
    ((s.setStack rest).setPc a).Inv := by
  obtain ⟨hwf, hlen, hent, -⟩ := h
  rw [hs] at hlen hent
  obtain ⟨ha, hrest⟩ := List.forall_mem_cons.1 hent
  exact ⟨hwf, Nat.le_of_succ_le hlen, hrest, ha.2.trans (by decide)⟩

/-- A block stored inside the 4096 bytes keeps memory canonical (R55). -/
theorem State.Inv.store {s : State} (h : s.Inv) {a : Nat} {bs : List Byte} (hin : a + bs.length ≤ 0x1000) :
    (s.setMem (s.mem.writeBytes a bs)).Inv :=
  ⟨Memory.wf_writeBytes h.mem_wf hin, h.stack_depth, h.stack_entries, h.pc_bound⟩

/-- An instruction executed on a state a fetch leaves keeps the invariant. -/
theorem exec_keeps_inv {i : Instr} {s t : State} (hs : s.Inv) (hpc : 2 ≤ s.pc.toNat ∧ s.pc.toNat ≤ 0x1000)
    (h : exec i s = .next t) : t.Inv := by
  have heffect := exec_effect h
  cases heffect with
  | jump _ _ ha => exact hs.setPc ha
  | skip _ _ c =>
    rw [State.skipIf_eq_setPc]
    refine hs.setPc ?_
    cases c
    · exact hs.pc_bound
    · rw [if_pos rfl]
      bv_omega
  | wait =>
    refine hs.setPc ?_
    bv_omega
  | push _ _ _ hlen nnn => exact (hs.push hlen hpc).setPc (addrOperand_toNat_le nnn)
  | pop _ _ _ hstack => exact hs.pop hstack
  | store _ _ hin => exact hs.store hin
  | reg | regFlag | regs | index | delay | sound | clear | draw =>
    exact ⟨hs.mem_wf, hs.stack_depth, hs.stack_entries, hs.pc_bound⟩

/-- Settles O49: the fetch bounds the advanced `PC`, the instruction keeps the invariant, and the end of the step
touches nothing it speaks of. -/
theorem stepKeepsTheInvariant : Obligations.StepKeepsTheInvariant := by
  intro s t hs h
  obtain ⟨w, hw, ⟨i, u, -, hu, rfl⟩ | ⟨e, -, rfl⟩⟩ := step_next_cases h
  · obtain ⟨hpc, -⟩ := State.fetch_eq_ok.1 hw
    exact (exec_keeps_inv (hs.ready hpc) (State.ready_pc_bounds hpc) hu).endStep false
  · obtain ⟨hpc, -⟩ := State.fetch_eq_ok.1 hw
    exact (hs.ready hpc).endStep true

end Sys2Proof.Machine
end

section
/-! Frames: which component, and which flag, an instruction or a step can change. -/

namespace Sys2Proof.Machine

/-- Settles O17: each kind of effect leaves every component but its own as it was. -/
theorem eachComponentHasItsWriters : Obligations.EachComponentHasItsWriters := by
  intro i s t h
  have heffect := exec_effect h
  cases heffect with
  | reg | regFlag | regs => simp
  | jump _ hpc | skip _ hpc | wait _ hpc => simp [hpc]
  | push _ hpc hk | pop _ hpc hk => simp [hpc, hk]
  | index _ hw | delay _ hw | sound _ hw | clear _ hw | draw _ hw | store _ hw => simp [hw]

/-- No instruction writes `KEYS` or a field of the model's own (R30; log entries 1, 8). -/
theorem exec_keeps_host {i : Instr} {s t : State} (h : exec i s = .next t) :
    t.keys = s.keys ∧ t.inputs = s.inputs ∧ t.stepNo = s.stepNo ∧ t.unknown = s.unknown := by
  obtain ⟨-, -, -, -, -, hkeys, -, -, hown⟩ := eachComponentHasItsWriters i s t h
  exact ⟨hkeys, hown⟩

theorem flagByte_eq_zero_or_one (c : Bool) : flagByte c = 0 ∨ flagByte c = 1 := by
  cases c
  · exact .inl rfl
  · exact .inr rfl

/-- Settles O19: a flag is written by the two effects of the six instructions only, and last; of the others only a
register write can reach `VF`, and then `VF` is a destination. -/
theorem sixInstructionsWriteVFAsAFlag : Obligations.SixInstructionsWriteVFAsAFlag := by
  intro i s t h
  have heffect := exec_effect h
  cases heffect with
  | regFlag hf | draw hf => simpa [hf] using flagByte_eq_zero_or_one _
  | reg hf hx =>
    refine ⟨fun hflag => by simp [hf] at hflag, fun _ h15 => State.reg_setReg_of_ne s _ ?_⟩
    rintro rfl
    simp [hx] at h15
  | regs hf hv => exact ⟨fun hflag => by simp [hf] at hflag, fun _ h15 => hv 15 h15⟩
  | jump hf | skip hf | wait hf | push hf | pop hf | index hf | delay hf | sound hf | clear hf | store hf =>
    simp [hf]

/-- A completed step has the presented keys in `KEYS`, has used up one input and is counted (R70; log entry 1). -/
theorem step_next_host {s t : State} (h : step s = .next t) :
    t.keys = s.presentedKeys ∧ t.inputs = s.inputs.tail ∧ t.stepNo = s.stepNo + 1 := by
  obtain ⟨w, -, ⟨i, u, -, hu, rfl⟩ | ⟨e, -, rfl⟩⟩ := step_next_cases h
  · obtain ⟨hkeys, hinputs, hno, -⟩ := exec_keeps_host hu
    simp [hkeys, hinputs, hno]
  · simp

/-- Settles O14: the presented keys are the first input's, and the rest of the list is its tail. -/
theorem presentedInputsReachTheStep : Obligations.PresentedInputsReachTheStep := by
  intro s t p rest hs h
  obtain ⟨hkeys, hinputs, -⟩ := step_next_host h
  rw [State.presentedKeys_of_input hs] at hkeys
  rw [hs] at hinputs
  exact ⟨hkeys, hinputs⟩

theorem State.presentedKeys_of_no_input {s : State} (h : s.inputs = []) :
    s.presentedKeys = Config.freeKeys s.stepNo := by
  rw [State.presentedKeys, h]

/-- Settles O52: with no input listed the presented keys are the free ones, and the tail of `[]` is `[]`. -/
theorem freeInputsReachTheStep : Obligations.FreeInputsReachTheStep := by
  intro s t hs h
  obtain ⟨hkeys, hinputs, hno⟩ := step_next_host h
  rw [State.presentedKeys_of_no_input hs] at hkeys
  rw [hs] at hinputs
  exact ⟨hkeys, hinputs, hno⟩

end Sys2Proof.Machine
end

section
/-! Noninterference: `KEYS` and the model's own fields reach an instruction only by the keys SKP, SKNP and WKEY
read and the random byte RND reads. -/

namespace Sys2Proof.Machine

/-- `s` with another `KEYS` and other values of the model's own fields; the rest of the architectural state is
kept. -/
def State.withHost (s : State) (k : BitVec 16) (l : List StepInput) (n : Nat) (u : Bool) : State :=
  { s with keys := k, inputs := l, stepNo := n, unknown := u }

theorem exec_wkey_of_no_key {x : Reg} {s : State} (h : s.keys = 0) :
    exec (.wkey x) s = .next (s.setPc (s.pc - 2)) := by
  rw [exec, execWkey, if_pos h]

theorem exec_wkey_of_key {x : Reg} {s : State} (h : s.keys ≠ 0) :
    exec (.wkey x) s = .next (s.setReg x (BitVec.ofNat 8 (keyPick s.keys).val)) := by
  rw [exec, execWkey, if_neg h]

/-- An update of the next state of an outcome; a fault or a refusal has none. -/
def mapNext (g : State → State) : Result → Result
  | .next t => .next (g t)
  | .fault f => .fault f
  | .refused r => .refused r

@[simp] theorem mapNext_next (g : State → State) (t : State) : mapNext g (.next t) = .next (g t) := rfl
@[simp] theorem mapNext_fault (g : State → State) (f : Fault) : mapNext g (.fault f) = .fault f := rfl
@[simp] theorem mapNext_refused (g : State → State) (r : Refusal) : mapNext g (.refused r) = .refused r := rfl

theorem mapNext_congr {g g' : State → State} {r : Result} (h : ∀ t, r = .next t → g t = g' t) :
    mapNext g r = mapNext g' r := by
  cases r with
  | next t => rw [mapNext_next, mapNext_next, h t rfl]
  | fault f => rfl
  | refused r => rfl

section
variable (s : State) (k : BitVec 16) (l : List StepInput) (n : Nat) (u : Bool)

theorem State.skipIf_withHost (c : Bool) : (s.withHost k l n u).skipIf c = (s.skipIf c).withHost k l n u := by
  cases c <;> rfl

theorem checkRange_withHost {s t : State} (a m : Nat) (ht : t = s.withHost k l n u) :
    checkRange a m t = mapNext (·.withHost k l n u) (checkRange a m s) := by
  rw [ht]
  exact checkRange_map a m s (·.withHost k l n u)

theorem pushAndJump_withHost (a : Word) :
    pushAndJump a (s.withHost k l n u) = mapNext (·.withHost k l n u) (pushAndJump a s) := by
  by_cases h : s.stack.length < 16
  · rw [pushAndJump_eq_next.2 ⟨h, rfl⟩]
    exact pushAndJump_eq_next.2 ⟨h, rfl⟩
  · rw [pushAndJump_eq_fault.2 ⟨not_lt.1 h, rfl⟩]
    exact pushAndJump_eq_fault.2 ⟨not_lt.1 h, rfl⟩

theorem popAndJump_withHost :
    popAndJump (s.withHost k l n u) = mapNext (·.withHost k l n u) (popAndJump s) := by
  cases hs : s.stack with
  | nil =>
    rw [popAndJump_eq_fault.2 ⟨hs, rfl⟩]
    exact popAndJump_eq_fault.2 ⟨hs, rfl⟩
  | cons a rest =>
    rw [popAndJump_eq_next.2 ⟨a, rest, hs, rfl⟩]
    exact popAndJump_eq_next.2 ⟨a, rest, hs, rfl⟩

/-- With `KEYS` kept, a key test goes the same way. -/
theorem withKey_withHost {x : Reg} {go : Bool → State} {go' : Bool → State}
    (hgo : ∀ c, go' c = (go c).withHost s.keys l n u) :
    withKey x (s.withHost s.keys l n u) go' = mapNext (·.withHost s.keys l n u) (withKey x s go) := by
  by_cases h : (s.reg x).toNat ≤ 15
  · rw [withKey_eq_next.2 ⟨h, rfl⟩, mapNext_next, ← hgo]
    exact withKey_eq_next.2 ⟨h, rfl⟩
  · rw [withKey_eq_fault.2 ⟨not_le.1 h, rfl⟩]
    exact withKey_eq_fault.2 ⟨not_le.1 h, rfl⟩

end

/-- Executing an instruction on a state that differs in `KEYS` or in the model's own fields gives the same outcome,
its next state differing in the same way, where an instruction that reads `KEYS` finds the same and RND finds the
same random byte. -/
theorem exec_withHost {i : Instr} {s : State} {k : BitVec 16} {l : List StepInput} {n : Nat} {u : Bool}
    (hk : i.readsKeys = true → k = s.keys)
    (hr : ∀ x kk, i = .rnd x kk → (s.withHost k l n u).rnd = s.rnd) :
    exec i (s.withHost k l n u) = mapNext (·.withHost k l n u) (exec i s) := by
  cases i with
  | ret => exact popAndJump_withHost s k l n u
  | call nnn => exact pushAndJump_withHost s k l n u _
  | sei | snei | ser | sner => exact congrArg _ (s.skipIf_withHost k l n u _)
  | rnd x kk => exact congrArg (fun b => Host.Outcome.next ((s.withHost k l n u).setReg x (b &&& kk))) (hr x kk rfl)
  | skp x =>
    obtain rfl := hk rfl
    exact withKey_withHost s l n u fun c => s.skipIf_withHost _ l n u c
  | sknp x =>
    obtain rfl := hk rfl
    exact withKey_withHost s l n u fun c => s.skipIf_withHost _ l n u (!c)
  | wkey x =>
    obtain rfl := hk rfl
    by_cases h : s.keys = 0
    · rw [exec_wkey_of_no_key h]
      exact exec_wkey_of_no_key h
    · rw [exec_wkey_of_key h]
      exact exec_wkey_of_key h
  | drw | bcd | stm | ldm => exact checkRange_withHost k l n u _ _ rfl
  | cls | jp | ldi | addi | mov | or | and | xor | add | sub | shr | subn | shl | ldix | jpv0 | rddt | wrdt | wrst
  | addix | font => rfl

/-- Settles O15: a key vector is one of the values `exec_withHost` lets vary, and `exec` keeps the others. -/
theorem keysReachOnlyKeyInstructions : Obligations.KeysReachOnlyKeyInstructions := by
  intro i s k hi
  have hexec : exec i (s.setKeys k) = mapNext (·.withHost k s.inputs s.stepNo s.unknown) (exec i s) :=
    exec_withHost (fun h => by simp [hi] at h) fun _ _ _ => rfl
  have hkeep : mapNext (·.withHost k s.inputs s.stepNo s.unknown) (exec i s) = mapNext (·.setKeys k) (exec i s) :=
    mapNext_congr fun t ht => by
      obtain ⟨-, hinputs, hno, hunknown⟩ := exec_keeps_host ht
      rw [← hinputs, ← hno, ← hunknown]
      rfl
  exact hexec.trans hkeep

/-- Settles O16: RND excluded, `exec_withHost` lets the inputs and the step number vary, and `exec` keeps the
others. -/
theorem randomByteReachesOnlyRnd : Obligations.RandomByteReachesOnlyRnd := by
  intro i s l n hi
  have hexec : exec i { s with inputs := l, stepNo := n } = mapNext (·.withHost s.keys l n s.unknown) (exec i s) :=
    exec_withHost (fun _ => rfl) fun x kk h => absurd h (hi x kk)
  have hkeep : mapNext (·.withHost s.keys l n s.unknown) (exec i s) =
      mapNext (fun t => { t with inputs := l, stepNo := n }) (exec i s) :=
    mapNext_congr fun t ht => by
      obtain ⟨hkeys, -, -, hunknown⟩ := exec_keeps_host ht
      rw [← hkeys, ← hunknown]
      rfl
  exact hexec.trans hkeep

/-- With `KEYS` and the random byte kept, what a fetched word does that the host observes does not depend on the
model's own fields. -/
theorem observed_runWord_withHost (w : Word) {s : State} {l : List StepInput} {n : Nat} {u : Bool}
    (hr : (s.withHost s.keys l n u).rnd = s.rnd) :
    observed (runWord w (s.withHost s.keys l n u)) = observed (runWord w s) := by
  unfold runWord
  cases decode w with
  | error e => rfl
  | ok i =>
    have hexec := exec_withHost (i := i) (fun _ => rfl) fun _ _ _ => hr
    dsimp only
    rw [hexec]
    cases ht : exec i s with
    | next t =>
      obtain ⟨hkeys, -⟩ := exec_keeps_host ht
      rw [← hkeys]
      rfl
    | fault f => rfl
    | refused r => rfl

theorem step_of_not_fetchable {s : State} (h : 0xFFF < s.pc.toNat + 1) :
    step s = .fault (.fetchOutOfBounds s.pc) := by
  have hf : s.fetch = .error (.fetchOutOfBounds s.pc) := State.fetch_eq_error.2 ⟨h, rfl⟩
  unfold step
  rw [State.fetch_latchKeys, hf]

/-- A step that presents the same keys and the same random byte is observed the same. -/
theorem observed_step_withHost {s : State} {l : List StepInput} {n : Nat} {u : Bool}
    (hk : (s.withHost s.keys l n u).presentedKeys = s.presentedKeys)
    (hr : (s.withHost s.keys l n u).rnd = s.rnd) :
    observed (step (s.withHost s.keys l n u)) = observed (step s) := by
  rcases Nat.lt_or_ge 0xFFF (s.pc.toNat + 1) with h | h
  · have h' : 0xFFF < (s.withHost s.keys l n u).pc.toNat + 1 := h
    rw [step_of_not_fetchable h, step_of_not_fetchable h']
    rfl
  · have h' : (s.withHost s.keys l n u).pc.toNat + 1 ≤ 0xFFF := h
    have hready : (s.withHost s.keys l n u).ready = s.ready.withHost s.ready.keys l n u := by
      rw [State.ready_keys, ← hk]
      rfl
    rw [step_of_fetchable h, step_of_fetchable h', hready]
    exact observed_runWord_withHost s.wordAtPc hr

/-- Settles O51: `archStep` starts from `s` with other values of the model's own fields, which present the same keys
and the same random byte. -/
theorem stepDependsOnTheArchitecturalState : Obligations.StepDependsOnTheArchitecturalState := fun s =>
  (observed_step_withHost (s := s) (l := [⟨s.presentedKeys, s.rnd⟩]) (n := 0) (u := false) rfl rfl).symm

end Sys2Proof.Machine
end

section
/-! What reset leaves (R34). -/

namespace Sys2Proof.Machine

theorem length_fontTable : fontTable.length = 80 := rfl

/-- The font table stands at `FONT_BASE` in reset memory (R33). -/
theorem initialByte_font {k : Nat} (h : k < fontTable.length) : initialByte (fontBase + k) = fontTable[k] := by
  rw [initialByte, if_neg (by omega), Nat.add_sub_cancel_left, List.getElem?_eq_getElem h, Option.getD_some]

/-- Reset memory is 0 outside the font table (R34, D3). -/
theorem initialByte_of_not_font {a : Nat} (h : a < fontBase ∨ fontBase + 80 ≤ a) : initialByte a = 0 := by
  rw [initialByte]
  split
  · rfl
  · rw [List.getElem?_eq_none (by rw [length_fontTable]; omega), Option.getD_none]

theorem State.reg_reset (r : Reg) : State.reset.reg r = 0 := Vector.getElem_replicate r.isLt

/-- Settles O1: the registers and cells are replicated zeros, and memory with no listed byte reads as
`initialByte`. -/
theorem resetLeavesSpecValues : Obligations.ResetLeavesSpecValues :=
  ⟨State.reg_reset, rfl, rfl, rfl, rfl, rfl, fun _ _ => BitVec.getLsbD_zero, Framebuffer.cell_clear,
    length_fontTable, fun _ h => initialByte_font h, fun _ h => initialByte_of_not_font h⟩

end Sys2Proof.Machine
end

section
/-! Fetching and storing: the fetched word as a number (R50), and the bytes of a block store as later reads and the
next fetch see them (R62). -/

namespace Sys2Proof.Machine

/-- Settles O9: `State.fetch_eq_ok` with the word written as a number. -/
theorem fetchIsBigEndian : Obligations.FetchIsBigEndian := by
  intro s w
  rw [State.fetch_eq_ok, ← wordOfBytes_toNat, BitVec.toNat_inj]

/-- A step completes when it can fetch, its word decodes and the instruction completes (R70). -/
theorem step_of_exec {s u : State} {i : Instr} (hpc : s.pc.toNat + 1 ≤ 0xFFF) (hi : decode s.wordAtPc = .ok i)
    (hu : exec i s.ready = .next u) : step s = .next (u.endStep false) := by
  rw [step_of_fetchable hpc, runWord, hi]
  exact finishStep_eq_next.2 ⟨u, hu, rfl⟩

/-- STM stores V0 to Vx at `I` up when the block lies inside memory (R145). -/
theorem exec_stm_of_inside {x : Reg} {s : State} (h : s.i.toNat + x.val ≤ 0xFFF) :
    exec (.stm x) s = .next (s.setMem (s.mem.writeBytes s.i.toNat (s.regBlock x))) :=
  checkRange_of_inside (.inr (Nat.succ_le_succ h))

/-- A register block written to memory reads back register by register (R145). -/
theorem State.read_writeBytes_regBlock (s : State) {m : Memory} (hm : m.wf) (a : Nat) {x r : Reg} (h : r ≤ x) :
    (m.writeBytes a (s.regBlock x)).read (a + r.val) = s.reg r := by
  have hr : r.val < (s.regBlock x).length := by
    rw [State.length_regBlock]
    exact Nat.lt_succ_of_le h
  rw [Memory.read_writeBytes_inside hm.1 hr, State.getElem_regBlock]

/-- The word fetched where the bytes `hi` and `lo` stand (R50). -/
theorem State.fetch_of_reads {s : State} {a : Nat} {hi lo : Byte} (hpc : s.pc.toNat = a) (ha : a + 1 ≤ 0xFFF)
    (hhi : s.mem.read a = hi) (hlo : s.mem.read (a + 1) = lo) : s.fetch = .ok (wordOfBytes hi lo) :=
  State.fetch_eq_ok.2 ⟨hpc ▸ ha, by rw [hpc, hhi, hlo]⟩

/-- Settles O38: the step leaves `PC` at the `k`-th byte of the block STM stored, so the next fetch reads the `k`-th
and the next register. -/
theorem storedBytesAreFetchedNext : Obligations.StoredBytesAreFetchedNext := by
  intro s x k h hwf hpc hi hin hk hat
  have hnext : (s.pc + 2).toNat = s.i.toNat + k := by bv_omega
  have hread (r : Reg) (hr : r ≤ x) := s.ready.read_writeBytes_regBlock hwf s.i.toNat hr
  have hhigh := hread ⟨k, Nat.lt_of_succ_lt h⟩ (Nat.le_of_succ_le hk)
  have hlow := hread ⟨k + 1, h⟩ hk
  exact ⟨_, _, step_of_exec hpc hi (exec_stm_of_inside hin), rfl,
    State.fetch_of_reads hnext (by omega) hhigh hlow, wordOfBytes_toNat _ _⟩

end Sys2Proof.Machine
end

section
/-! The decoder and the encoder are inverse to each other (R71, R73, R76). -/

namespace Sys2Proof

/-- Settles O4: the fields of an encoded word are the operands (R71), and its fixed digits lead the two-level
dispatch to the instruction's own arm (R75). -/
theorem decodeInvertsEncode : Obligations.DecodeInvertsEncode := by
  intro i
  cases i with
  | cls | ret => rfl
  | jp | call | ldix | jpv0 => simp [encode, decode]
  | sei | snei | ldi | addi | rnd => simp [encode, decode]
  | ser | sner | drw => simp [encode, decode]
  | mov | or | and | xor | add | sub | shr | subn | shl => simp [encode, decode, decodeGroup8]
  | skp | sknp => simp [encode, decode, decodeGroupE]
  | rddt | wkey | wrdt | wrst | addix | font | bcd | stm | ldm => simp [encode, decode, decodeGroupF]

section
variable {w : Word} {op n : BitVec 4} {kk : Byte} {i : Instr}

theorem formatA_of_op (hop : fieldOp w = op) : formatA op (fieldNNN w) = w := by
  rw [← hop, formatA_fields]

theorem formatRI_of_op (hop : fieldOp w = op) : formatRI op (fieldX w) (fieldKK w) = w := by
  rw [← hop, formatRI_fields]

theorem formatR_of_digits (hop : fieldOp w = op) (hkk : fieldKK w = kk) : formatRI op (fieldX w) kk = w := by
  rw [← hkk, formatRI_of_op hop]

theorem formatRRN_of_op (hop : fieldOp w = op) : formatRR op (fieldX w) (fieldY w) (fieldN w) = w := by
  rw [← hop, formatRR_fields]

theorem formatRR_of_digits (hop : fieldOp w = op) (hn : fieldN w = n) :
    formatRR op (fieldX w) (fieldY w) n = w := by
  rw [← hn, formatRRN_of_op hop]

theorem encode_of_decodeGroup0 (h : decodeGroup0 w = .ok i) : encode i = w := by
  unfold decodeGroup0 at h
  split_ifs at h with hcls hret
  · cases h; exact hcls.symm
  · cases h; exact hret.symm

theorem encode_of_decodeGroup8 (hop : fieldOp w = 0x8) (h : decodeGroup8 w = .ok i) : encode i = w := by
  unfold decodeGroup8 at h
  split at h <;> cases h <;> exact formatRR_of_digits hop (BitVec.eq_of_toNat_eq ‹_›)

theorem encode_of_decodeGroupE (hop : fieldOp w = 0xE) (h : decodeGroupE w = .ok i) : encode i = w := by
  unfold decodeGroupE at h
  split_ifs at h <;> cases h <;> exact formatR_of_digits hop ‹_›

theorem encode_of_decodeGroupF (hop : fieldOp w = 0xF) (h : decodeGroupF w = .ok i) : encode i = w := by
  unfold decodeGroupF at h
  split_ifs at h <;> cases h <;> exact formatR_of_digits hop ‹_›

end

/-- Settles O5: the leading nibble `decode` dispatches on is the one `encode` writes, the digits it checks are the
fixed ones, and the operands are the word's own fields. -/
theorem encodeInvertsDecode : Obligations.EncodeInvertsDecode := by
  intro w i h
  have hop {op : BitVec 4} (hnat : (fieldOp w).toNat = op.toNat) : fieldOp w = op := BitVec.eq_of_toNat_eq hnat
  unfold decode at h
  split at h
  next => exact encode_of_decodeGroup0 h
  next h1 => cases h; exact formatA_of_op (hop h1)
  next h2 => cases h; exact formatA_of_op (hop h2)
  next h3 => cases h; exact formatRI_of_op (hop h3)
  next h4 => cases h; exact formatRI_of_op (hop h4)
  next h5 => split at h <;> cases h; exact formatRR_of_digits (hop h5) ‹_›
  next h6 => cases h; exact formatRI_of_op (hop h6)
  next h7 => cases h; exact formatRI_of_op (hop h7)
  next h8 => exact encode_of_decodeGroup8 (hop h8) h
  next h9 => split at h <;> cases h; exact formatRR_of_digits (hop h9) ‹_›
  next hA => cases h; exact formatA_of_op (hop hA)
  next hB => cases h; exact formatA_of_op (hop hB)
  next hC => cases h; exact formatRI_of_op (hop hC)
  next hD => cases h; exact formatRRN_of_op (hop hD)
  next hE => exact encode_of_decodeGroupE (hop hE) h
  next =>
    have hF : (fieldOp w).toNat = 0xF := by
      have := (fieldOp w).isLt
      simp only [imp_false] at *
      omega
    exact encode_of_decodeGroupF (hop hF) h

end Sys2Proof
end

section
/-! The Unknown words: which words each group of rule R78 rejects. -/

namespace Sys2Proof

theorem fieldOp_toNat (w : Word) : (fieldOp w).toNat = w.toNat / 0x1000 := by
  have := w.isLt
  rw [fieldOp, BitVec.extractLsb'_toNat, Nat.shiftRight_eq_div_pow]
  omega

theorem fieldN_toNat (w : Word) : (fieldN w).toNat = w.toNat % 0x10 := BitVec.extractLsb'_toNat 0 4 w

theorem fieldKK_toNat (w : Word) : (fieldKK w).toNat = w.toNat % 0x100 := BitVec.extractLsb'_toNat 0 8 w

/-- The leading nibble of the words of a group (R78). -/
def UnknownWord.op : UnknownWord → Nat
  | .group0 => 0x0
  | .group5 => 0x5
  | .group8 => 0x8
  | .group9 => 0x9
  | .groupE => 0xE
  | .groupF => 0xF

/-- The test by which the secondary dispatch of a group rejects a word (R75, R78). -/
def UnknownWord.Rejects (w : Word) : UnknownWord → Prop
  | .group0 => w ≠ 0x00E0 ∧ w ≠ 0x00EE
  | .group5 | .group9 => (fieldN w).toNat ≠ 0
  | .group8 => (fieldN w).toNat ∈ [0x8, 0x9, 0xA, 0xB, 0xC, 0xD, 0xF]
  | .groupE => (fieldKK w).toNat ∉ [0x9E, 0xA1]
  | .groupF => (fieldKK w).toNat ∉ [0x07, 0x0A, 0x15, 0x18, 0x1E, 0x29, 0x33, 0x55, 0x65]

section
variable {w : Word} {u : UnknownWord}

theorem decodeGroup0_eq_error :
    decodeGroup0 w = .error u ↔ .group0 = u ∧ UnknownWord.group0.Rejects w := by
  unfold decodeGroup0 UnknownWord.Rejects
  split_ifs <;> simp_all

theorem decodeGroup8_eq_error :
    decodeGroup8 w = .error u ↔ .group8 = u ∧ UnknownWord.group8.Rejects w := by
  unfold decodeGroup8 UnknownWord.Rejects
  split
  case h_10 =>
    have := (fieldN w).isLt
    simp only [imp_false, Except.error.injEq, List.mem_cons, List.not_mem_nil, or_false, iff_self_and] at *
    omega
  all_goals simp [*]

theorem decodeGroupE_eq_error :
    decodeGroupE w = .error u ↔ .groupE = u ∧ UnknownWord.groupE.Rejects w := by
  unfold decodeGroupE UnknownWord.Rejects
  split_ifs <;> simp_all [← BitVec.toNat_inj]

theorem decodeGroupF_eq_error :
    decodeGroupF w = .error u ↔ .groupF = u ∧ UnknownWord.groupF.Rejects w := by
  unfold decodeGroupF UnknownWord.Rejects
  split_ifs <;> simp_all [← BitVec.toNat_inj]

/-- A word is rejected as `u` when it is in that group and fails the group's test. -/
theorem decode_eq_error : decode w = .error u ↔ (fieldOp w).toNat = u.op ∧ u.Rejects w := by
  constructor
  · intro h
    unfold decode at h
    split at h
    case h_1 h0 => obtain ⟨rfl, hrej⟩ := decodeGroup0_eq_error.1 h; exact ⟨h0, hrej⟩
    case h_6 h5 =>
      split at h <;> cases h
      exact ⟨h5, fun hn => ‹fieldN w ≠ 0› (BitVec.eq_of_toNat_eq hn)⟩
    case h_9 h8 => obtain ⟨rfl, hrej⟩ := decodeGroup8_eq_error.1 h; exact ⟨h8, hrej⟩
    case h_10 h9 =>
      split at h <;> cases h
      exact ⟨h9, fun hn => ‹fieldN w ≠ 0› (BitVec.eq_of_toNat_eq hn)⟩
    case h_15 hE => obtain ⟨rfl, hrej⟩ := decodeGroupE_eq_error.1 h; exact ⟨hE, hrej⟩
    case h_16 =>
      have hF : (fieldOp w).toNat = 0xF := by
        have := (fieldOp w).isLt
        simp only [imp_false] at *
        omega
      obtain ⟨rfl, hrej⟩ := decodeGroupF_eq_error.1 h
      exact ⟨hF, hrej⟩
    all_goals cases h
  · rintro ⟨hop, hrej⟩
    unfold decode
    rw [hop]
    cases u with
    | group0 => exact decodeGroup0_eq_error.2 ⟨rfl, hrej⟩
    | group8 => exact decodeGroup8_eq_error.2 ⟨rfl, hrej⟩
    | groupE => exact decodeGroupE_eq_error.2 ⟨rfl, hrej⟩
    | groupF => exact decodeGroupF_eq_error.2 ⟨rfl, hrej⟩
    | group5 | group9 => exact if_neg (hrej ∘ congrArg BitVec.toNat)

end

/-- Settles O6: `decode_eq_error` with the fields written as numbers. -/
theorem rejectedWordsAreTheUnknownWords : Obligations.RejectedWordsAreTheUnknownWords := by
  intro w u
  rw [decode_eq_error, fieldOp_toNat]
  cases u with
  | group0 => simp [UnknownWord.op, UnknownWord.Rejects, ← BitVec.toNat_inj]
  | group5 | group8 | group9 => rw [← fieldN_toNat]; rfl
  | groupE | groupF => rw [← fieldKK_toNat]; rfl

end Sys2Proof
end

section
/-! The opcode map: an encoded word matches the row of its instruction, no word matches two rows, and an Unknown word
matches none. -/

namespace Sys2Proof.Laws.EncodesItsRow

/-- The family `EncodesItsRow` as one statement about every instruction. -/
theorem statement : ∀ i, Statement i
  | .cls => cls
  | .ret => ret
  | .jp nnn => jp nnn
  | .call nnn => call nnn
  | .sei x kk => sei x kk
  | .snei x kk => snei x kk
  | .ser x y => ser x y
  | .ldi x kk => ldi x kk
  | .addi x kk => addi x kk
  | .mov x y => mov x y
  | .or x y => or x y
  | .and x y => and x y
  | .xor x y => xor x y
  | .add x y => add x y
  | .sub x y => sub x y
  | .shr x y => shr x y
  | .subn x y => subn x y
  | .shl x y => shl x y
  | .sner x y => sner x y
  | .ldix nnn => ldix nnn
  | .jpv0 nnn => jpv0 nnn
  | .rnd x kk => rnd x kk
  | .drw x y n => drw x y n
  | .skp x => skp x
  | .sknp x => sknp x
  | .rddt x => rddt x
  | .wkey x => wkey x
  | .wrdt x => wrdt x
  | .wrst x => wrst x
  | .addix x => addix x
  | .font x => font x
  | .bcd x => bcd x
  | .stm x => stm x
  | .ldm x => ldm x

end Sys2Proof.Laws.EncodesItsRow

namespace Sys2Proof

/-- Two different rows ask for different bits under their common mask. -/
theorem opcodeRows_pairwise :
    opcodeRows.Pairwise fun r q => r.pattern &&& q.mask ≠ q.pattern &&& r.mask := by decide

theorem OpcodeRow.matches_iff {r : OpcodeRow} {w : Word} : r.matches w = true ↔ w &&& r.mask = r.pattern :=
  beq_iff_eq

/-- A word that two rows match has the bits of both under their common mask. -/
theorem OpcodeRow.pattern_and_mask_comm {r q : OpcodeRow} {w : Word} (hr : r.matches w = true)
    (hq : q.matches w = true) : r.pattern &&& q.mask = q.pattern &&& r.mask := by
  rw [← matches_iff.1 hr, ← matches_iff.1 hq, BitVec.and_assoc, BitVec.and_assoc, BitVec.and_comm r.mask]

theorem eq_singleton_of_pairwise_false {α : Type*} {a : α} : ∀ {l : List α},
    l.Pairwise (fun _ _ => False) → a ∈ l → l = [a]
  | [_], _, ha => by rw [List.mem_singleton.1 ha]
  | _ :: _ :: _, hl, _ => (List.rel_of_pairwise_cons hl List.mem_cons_self).elim

/-- A row that matches a word is the only one. -/
theorem rowsOf_eq_singleton {r : OpcodeRow} {w : Word} (hr : r ∈ opcodeRows) (h : r.matches w = true) :
    rowsOf w = [r] := by
  refine eq_singleton_of_pairwise_false ?_ (List.mem_filter.2 ⟨hr, h⟩)
  refine List.Pairwise.imp_of_mem (fun hp hq hne => ?_) (opcodeRows_pairwise.filter _)
  exact hne (OpcodeRow.pattern_and_mask_comm (List.mem_filter.1 hp).2 (List.mem_filter.1 hq).2)

/-- The mask of every row in a group: the digits the group's secondary dispatch reads (R73, R75). -/
def UnknownWord.mask : UnknownWord → Word
  | .group0 => 0xFFFF
  | .group5 | .group8 | .group9 => 0xF00F
  | .groupE | .groupF => 0xF0FF

theorem fieldOp_and {m : Word} (w : Word) (hm : fieldOp m = BitVec.allOnes 4) : fieldOp (w &&& m) = fieldOp w := by
  rw [fieldOp, BitVec.extractLsb'_and, ← fieldOp, ← fieldOp, hm, BitVec.and_allOnes]

theorem fieldN_and {m : Word} (w : Word) (hm : fieldN m = BitVec.allOnes 4) : fieldN (w &&& m) = fieldN w := by
  rw [fieldN, BitVec.extractLsb'_and, ← fieldN, ← fieldN, hm, BitVec.and_allOnes]

theorem fieldKK_and {m : Word} (w : Word) (hm : fieldKK m = BitVec.allOnes 8) : fieldKK (w &&& m) = fieldKK w := by
  rw [fieldKK, BitVec.extractLsb'_and, ← fieldKK, ← fieldKK, hm, BitVec.and_allOnes]

/-- The leading nibble is fixed in every row (R73). -/
theorem OpcodeRow.fieldOp_mask : ∀ r ∈ opcodeRows, fieldOp r.mask = BitVec.allOnes 4 := by decide

/-- The rows of a group with Unknown words all have its mask, and the group's test rejects no row's pattern. -/
theorem OpcodeRow.mask_of_op (u : UnknownWord) : ∀ r ∈ opcodeRows, (fieldOp r.pattern).toNat = u.op →
    r.mask = u.mask ∧ ¬ u.Rejects r.pattern := by
  unfold UnknownWord.Rejects
  cases u <;> decide

/-- The digits the dispatch reads are left by the mask. -/
theorem UnknownWord.rejects_and_mask (u : UnknownWord) (w : Word) : u.Rejects (w &&& u.mask) ↔ u.Rejects w := by
  cases u with
  | group0 => rw [mask, show (0xFFFF : Word) = BitVec.allOnes 16 from rfl, BitVec.and_allOnes]
  | group5 | group8 | group9 => simp only [Rejects, mask, fieldN_and (m := 0xF00F) w rfl]
  | groupE | groupF => simp only [Rejects, mask, fieldKK_and (m := 0xF0FF) w rfl]

/-- A word that matches a row is not rejected. -/
theorem decode_ne_error_of_matches {r : OpcodeRow} {w : Word} (hr : r ∈ opcodeRows) (h : r.matches w = true)
    (u : UnknownWord) : decode w ≠ .error u := by
  intro hu
  obtain ⟨hop, hrej⟩ := decode_eq_error.1 hu
  have hpat := OpcodeRow.matches_iff.1 h
  have hop' : (fieldOp r.pattern).toNat = u.op := by
    rw [← hpat, fieldOp_and w (OpcodeRow.fieldOp_mask r hr), hop]
  obtain ⟨hmask, hnot⟩ := OpcodeRow.mask_of_op u r hr hop'
  rw [← hpat, hmask, u.rejects_and_mask] at hnot
  exact hnot hrej

/-- Settles O7: a decoded word is its instruction's encoding, which matches the instruction's row and so no other; a
rejected word matches none. -/
theorem decoderFollowsTheOpcodeMap : Obligations.DecoderFollowsTheOpcodeMap := by
  intro w
  split
  next i h =>
    obtain ⟨r, hr, hname, hmatch⟩ := Laws.EncodesItsRow.statement i
    rw [encodeInvertsDecode w i h] at hmatch
    exact ⟨r, rowsOf_eq_singleton hr hmatch, hname⟩
  next u h =>
    exact List.filter_eq_nil_iff.2 fun r hr hmatch => decode_ne_error_of_matches hr hmatch u h

/-- Settles O8. -/
theorem specWordsDecode : Obligations.SpecWordsDecode := by
  unfold Obligations.SpecWordsDecode
  decide

end Sys2Proof
end

section
/-! The register frame of an instruction (R72), and the step around a decoded and around an Unknown word (R70, R77). -/

namespace Sys2Proof.Machine

/-- Settles O18: only four kinds of effect write a register, and each leaves the others as they were. -/
theorem otherRegistersAreUnchanged : Obligations.OtherRegistersAreUnchanged := by
  intro i s t r h hw hflag
  have ne_of_mayWrite {x : Reg} (hx : i.mayWrite x = true) : r ≠ x := by
    rintro rfl
    simp [hx] at hw
  have heffect := exec_effect h
  cases heffect with
  | reg _ hx => exact State.reg_setReg_of_ne s _ (ne_of_mayWrite hx)
  | regFlag hf hx =>
    have h15 : r ≠ 15 := hflag.resolve_right (by simp [hf])
    simp [h15, ne_of_mayWrite hx]
  | regs _ hv => exact hv r hw
  | draw hf =>
    have h15 : r ≠ 15 := hflag.resolve_right (by simp [hf])
    simp [h15]
  | jump | skip | wait | push | pop | index | delay | sound | clear | store => simp

/-- A step faults when it can fetch, its word decodes and the instruction faults (R206). -/
theorem step_of_exec_fault {s : State} {i : Instr} {f : Fault} (hpc : s.pc.toNat + 1 ≤ 0xFFF)
    (hi : decode s.wordAtPc = .ok i) (hf : exec i s.ready = .fault f) : step s = .fault f := by
  rw [step_of_fetchable hpc, runWord, hi]
  exact finishStep_eq_fault.2 hf

/-- Settles O10: the state the statement executes on is the ready state. -/
theorem stepRunsTheDecodedInstruction : Obligations.StepRunsTheDecodedInstruction := fun _ _ hpc hi =>
  ⟨fun _ hu => step_of_exec hpc hi hu, fun _ hf => step_of_exec_fault hpc hi hf⟩

/-- Settles O12: an Unknown word leaves the ready state to the end of the step. -/
theorem unknownWordIsANoOp : Obligations.UnknownWordIsANoOp := by
  intro s u hpc hu
  rw [step_of_fetchable hpc, runWord, hu]
  rfl

end Sys2Proof.Machine
end

section
/-! Jumps, CALL and RET (R101 to R103, R108), and the two steps from a CALL back to the address after it. -/

namespace Sys2Proof.Machine

/-- RET goes to the newest stack entry and removes it (R101). -/
theorem exec_ret_of_stack {s : State} {a : Word} {rest : List Word} (h : s.stack = a :: rest) :
    exec .ret s = .next ((s.setStack rest).setPc a) :=
  popAndJump_eq_next.2 ⟨a, rest, h, rfl⟩

/-- CALL pushes `PC` and goes to its target while the stack has room (R103). -/
theorem exec_call_of_room {s : State} (nnn : BitVec 12) (h : s.stack.length < 16) :
    exec (.call nnn) s = .next ((s.setStack (s.pc :: s.stack)).setPc (addrOperand nnn)) :=
  pushAndJump_eq_next.2 ⟨h, rfl⟩

theorem State.wordAtPc_of_reads {s : State} {a : Nat} {hi lo : Byte} (hpc : s.pc.toNat = a)
    (hhi : s.mem.read a = hi) (hlo : s.mem.read (a + 1) = lo) : s.wordAtPc = wordOfBytes hi lo := by
  rw [State.wordAtPc, hpc, hhi, hlo]

/-- The target of JPV0 is an exact sum: at most 0xFF + 0xFFF, it does not reach 2^16 (R25, R108). -/
theorem jpv0Target_toNat (b : Byte) (nnn : BitVec 12) :
    (BitVec.ofNat 16 (b.toNat + nnn.toNat)).toNat = b.toNat + nnn.toNat := by
  have hb := b.isLt
  have hn := nnn.isLt
  rw [BitVec.toNat_ofNat, Nat.mod_eq_of_lt (by omega)]

/-- A step on a CALL leaves `PC` at the target and the address after the CALL as newest stack entry (R24, R103). -/
theorem step_call {s : State} {nnn : BitVec 12} (hpc : s.pc.toNat + 1 ≤ 0xFFF)
    (hi : decode s.wordAtPc = .ok (.call nnn)) (hroom : s.stack.length < 16) :
    ∃ t, step s = .next t ∧ t.pc = addrOperand nnn ∧ t.stack = (s.pc + 2) :: s.stack ∧ t.mem = s.mem :=
  ⟨_, step_of_exec hpc hi (exec_call_of_room nnn hroom), rfl, rfl, rfl⟩

/-- A step on a RET leaves `PC` at the newest stack entry (R101). -/
theorem step_ret {s : State} {a : Word} {rest : List Word} (hpc : s.pc.toNat + 1 ≤ 0xFFF)
    (hi : decode s.wordAtPc = .ok .ret) (hs : s.stack = a :: rest) :
    ∃ t, step s = .next t ∧ t.pc = a ∧ t.stack = rest :=
  ⟨_, step_of_exec hpc hi (exec_ret_of_stack hs), rfl, rfl⟩

/-- Settles O24: the CALL leaves `PC` at its target, where the word 00EE stands, and its own address plus 2 on the
stack; the RET fetched there takes it off again. -/
theorem callThenRetReturnsAfterTheCall : Obligations.CallThenRetReturnsAfterTheCall := by
  intro s nnn hpc hcall htop hhi hlo hroom
  obtain ⟨t, hstep, htpc, htstack, htmem⟩ := step_call hpc hcall hroom
  have hat : t.pc.toNat = nnn.toNat := by rw [htpc, addrOperand_toNat]
  have hret : decode t.wordAtPc = .ok .ret := by
    rw [State.wordAtPc_of_reads hat (htmem ▸ hhi) (htmem ▸ hlo)]
    decide
  obtain ⟨u, hback, hupc, hustack⟩ := step_ret (hat ▸ htop) hret htstack
  exact ⟨t, u, hstep, hback, hupc, hustack⟩

/-- Settles O21. -/
theorem retPopsThePC : Obligations.RetPopsThePC := fun _ =>
  ⟨fun h => popAndJump_eq_fault.2 ⟨h, rfl⟩, fun _ _ h => exec_ret_of_stack h⟩

/-- Settles O22: both targets fit in `PC`, so neither is cut. -/
theorem jumpsGoToTheirTargets : Obligations.JumpsGoToTheirTargets := fun nnn s =>
  ⟨⟨s.setPc (addrOperand nnn), rfl, addrOperand_toNat nnn, rfl⟩,
    ⟨_, rfl, jpv0Target_toNat (s.reg 0) nnn, rfl⟩⟩

/-- Settles O23. -/
theorem callPushesTheReturnAddress : Obligations.CallPushesTheReturnAddress := fun nnn _ =>
  ⟨fun h => pushAndJump_eq_fault.2 ⟨h.ge, rfl⟩,
    fun h => ⟨_, exec_call_of_room nnn h, addrOperand_toNat nnn, rfl⟩⟩

end Sys2Proof.Machine
end

section
/-! The skips on a comparison of two bytes (R104 to R107). -/

namespace Sys2Proof.Machine

/-- Executing `i` on `s` adds 2 to `PC` modulo 2^16 and changes nothing else. -/
def Skips (i : Instr) (s : State) : Prop :=
  ∃ t, exec i s = .next t ∧ t.pc.toNat = (s.pc.toNat + 2) % 65536 ∧ t = { s with pc := t.pc }

section
variable {i j : Instr} {s : State} {c : Bool}

theorem skips_of_true (hi : exec i s = .next (s.skipIf c)) (hc : c = true) : Skips i s := by
  subst hc
  exact ⟨s.addPc 2, hi, BitVec.toNat_add s.pc 2, rfl⟩

theorem exec_of_skipIf_false (hi : exec i s = .next (s.skipIf c)) (hc : c = false) : exec i s = .next s := by
  subst hc
  exact hi

/-- Of an instruction that skips where two bytes are equal and one that skips where they differ, the bytes' values
as numbers decide which skips, and the other leaves the state as it is. -/
theorem comparisonSkips {a b : Byte} (hi : exec i s = .next (s.skipIf (a == b)))
    (hj : exec j s = .next (s.skipIf (a != b))) :
    (a.toNat = b.toNat → Skips i s) ∧ (a.toNat ≠ b.toNat → exec i s = .next s) ∧
    (a.toNat ≠ b.toNat → Skips j s) ∧ (a.toNat = b.toNat → exec j s = .next s) := by
  rw [ne_eq, BitVec.toNat_inj]
  exact ⟨fun h => skips_of_true hi (beq_iff_eq.2 h), fun h => exec_of_skipIf_false hi (beq_false_of_ne h),
    fun h => skips_of_true hj (bne_iff_ne.2 h), fun h => exec_of_skipIf_false hj (bne_eq_false_iff_eq.2 h)⟩

end

/-- Settles O25. -/
theorem immediateSkips : Obligations.ImmediateSkips := fun x kk _ =>
  comparisonSkips (i := .sei x kk) (j := .snei x kk) rfl rfl

/-- Settles O26. -/
theorem registerSkips : Obligations.RegisterSkips := fun x y _ =>
  comparisonSkips (i := .ser x y) (j := .sner x y) rfl rfl

end Sys2Proof.Machine
end

section
/-! Register load, arithmetic and logic (R121 to R132): what a register write, and a register write followed by the
flag, leave of a state, and the values the instructions write. -/

namespace Sys2Proof.Machine

/-- Executing `i` on `s` answers a state that differs in `V[x]` only, whose new value has the property `P`. -/
def WritesReg (i : Instr) (s : State) (x : Reg) (P : Byte → Prop) : Prop :=
  ∃ t, exec i s = .next t ∧ t = { s with v := t.v } ∧ P (t.reg x) ∧ ∀ r, r ≠ x → t.reg r = s.reg r

/-- Executing `i` on `s` answers a state that differs in `V[x]` and `VF` only: `VF` holds `f`, also where `x` is 15,
and the new `V[x]` has the property `P` where it is another register (R23). -/
def WritesRegThenFlag (i : Instr) (s : State) (x : Reg) (f : Nat) (P : Byte → Prop) : Prop :=
  ∃ t, exec i s = .next t ∧ t = { s with v := t.v } ∧ (t.reg 15).toNat = f ∧ (x ≠ 15 → P (t.reg x)) ∧
    ∀ r, r ≠ x → r ≠ 15 → t.reg r = s.reg r

section
variable {i : Instr} {s : State} {x : Reg} {b : Byte} {P : Byte → Prop}

theorem writesReg_of_setReg (hi : exec i s = .next (s.setReg x b)) (hb : P b) : WritesReg i s x P := by
  refine ⟨s.setReg x b, hi, rfl, ?_, fun r hr => s.reg_setReg_of_ne b hr⟩
  rwa [State.reg_setReg_self]

theorem writesRegThenFlag_of_setRegThenVF {c : Bool} {f : Nat} (hi : exec i s = .next (s.setRegThenVF x b c))
    (hc : (flagByte c).toNat = f) (hb : P b) : WritesRegThenFlag i s x f P := by
  refine ⟨s.setRegThenVF x b c, hi, rfl, ?flag, fun hx => ?result, fun r hr h15 => ?others⟩
  case flag => rwa [State.reg_setRegThenVF, if_pos rfl]
  case result => rwa [State.reg_setRegThenVF, if_neg hx, if_pos rfl]
  case others => rw [State.reg_setRegThenVF, if_neg h15, if_neg hr]

end

/-- The flag byte of a condition, as the number the statements give. -/
theorem flagByte_toNat_of_iff {c : Bool} {p : Prop} [Decidable p] (h : c = true ↔ p) :
    (flagByte c).toNat = if p then 1 else 0 := by
  simp only [flagByte_toNat, h]

/-- The difference of two bytes modulo 256, over the integers (R120). -/
theorem diffByte_toInt (a b : Byte) : ((diffByte a b).toNat : Int) = (a.toNat - b.toNat : Int) % 256 := by
  rw [diffByte, BitVec.toNat_ofInt]
  omega

/-- The flag of a right shift is bit 0 (R129, D13). -/
theorem flagByte_rightShiftFlag_toNat (a : Byte) : (flagByte (rightShiftFlag a)).toNat = a.toNat % 2 := by
  rw [flagByte_toNat_of_iff (rightShiftFlag_eq_true a)]
  split <;> omega

/-- The flag of a left shift is bit 7 (R131). -/
theorem flagByte_leftShiftFlag_toNat (a : Byte) : (flagByte (leftShiftFlag a)).toNat = a.toNat / 128 := by
  have := a.isLt
  rw [flagByte_toNat_of_iff (leftShiftFlag_eq_true a)]
  split <;> omega

/-- Settles O29. -/
theorem addWithCarryOut : Obligations.AddWithCarryOut := fun x y s =>
  writesRegThenFlag_of_setRegThenVF (P := fun b => b.toNat = ((s.reg x).toNat + (s.reg y).toNat) % 256) rfl
    (flagByte_toNat_of_iff (carryOut_eq_true _ _)) (sumByte_toNat _ _)

/-- Settles O30: SUBN is SUB with the operands exchanged. -/
theorem subtractionsWithNoBorrow : Obligations.SubtractionsWithNoBorrow := fun x y s =>
  ⟨writesRegThenFlag_of_setRegThenVF
      (P := fun b => (b.toNat : Int) = ((s.reg x).toNat - (s.reg y).toNat : Int) % 256) rfl
      (flagByte_toNat_of_iff (noBorrow_eq_true _ _)) (diffByte_toInt _ _),
    writesRegThenFlag_of_setRegThenVF
      (P := fun b => (b.toNat : Int) = ((s.reg y).toNat - (s.reg x).toNat : Int) % 256) rfl
      (flagByte_toNat_of_iff (noBorrow_eq_true _ _)) (diffByte_toInt _ _)⟩

/-- Settles O31. -/
theorem shiftsByOne : Obligations.ShiftsByOne := fun x _ s =>
  ⟨writesRegThenFlag_of_setRegThenVF (P := fun b => b.toNat = (s.reg x).toNat / 2) rfl
      (flagByte_rightShiftFlag_toNat _) (shiftRightByte_toNat _),
    writesRegThenFlag_of_setRegThenVF (P := fun b => b.toNat = 2 * (s.reg x).toNat % 256) rfl
      (flagByte_leftShiftFlag_toNat _) (by rw [shiftLeftByte_toNat, Nat.mul_comm])⟩

/-- Settles O27. -/
theorem loadsAndImmediateAdd : Obligations.LoadsAndImmediateAdd := fun x y kk s =>
  ⟨writesReg_of_setReg (P := (· = kk)) rfl rfl,
    writesReg_of_setReg (P := fun b => b.toNat = ((s.reg x).toNat + kk.toNat) % 256) rfl (sumByte_toNat _ _),
    writesReg_of_setReg (P := (· = s.reg y)) rfl rfl⟩

/-- Settles O28. -/
theorem bitwiseOperations : Obligations.BitwiseOperations := fun x y s =>
  ⟨writesReg_of_setReg (P := fun b => ∀ k < 8, b.getLsbD k = ((s.reg x).getLsbD k || (s.reg y).getLsbD k)) rfl
      fun _ _ => BitVec.getLsbD_or,
    writesReg_of_setReg (P := fun b => ∀ k < 8, b.getLsbD k = ((s.reg x).getLsbD k && (s.reg y).getLsbD k)) rfl
      fun _ _ => BitVec.getLsbD_and,
    writesReg_of_setReg (P := fun b => ∀ k < 8, b.getLsbD k = ((s.reg x).getLsbD k != (s.reg y).getLsbD k)) rfl
      fun _ _ => BitVec.getLsbD_xor⟩

/-- Settles O32: a bit of the random byte AND `kk` is 0 where that of `kk` is, and else the random byte's; the
random byte is the listed input's where there is one. -/
theorem rndMasksTheRandomByte : Obligations.RndMasksTheRandomByte := by
  intro x kk s
  obtain ⟨t, hexec, hframe, hval, hothers⟩ : WritesReg (.rnd x kk) s x (· = s.rnd &&& kk) :=
    writesReg_of_setReg rfl rfl
  have hbit (k : Nat) : (t.reg x).getLsbD k = (s.rnd.getLsbD k && kk.getLsbD k) := by
    rw [hval, BitVec.getLsbD_and]
  refine ⟨t, hexec, hframe, fun k _ h0 => ?masked, fun p rest hin k _ h1 => ?kept, hothers⟩
  case masked => rw [hbit, h0, Bool.and_false]
  case kept => rw [hbit, h1, Bool.and_true, State.rnd_of_input hin]

end Sys2Proof.Machine
end

section
/-! The index register and memory instructions (R141 to R146): the bounds fault, the block a store leaves in memory,
and the block a load takes from it. -/

namespace Sys2Proof.Machine

/-- An access to the bytes from `a` to `a + k` faults with its last address when that is above 0xFFF (R55, R204). -/
theorem checkRange_of_past_top {a k : Nat} {t : State} (h : 0xFFF < a + k) :
    checkRange a (k + 1) t = .fault (.memoryOutOfBounds (a + k)) :=
  checkRange_eq_fault.2 ⟨Nat.succ_pos k, h, rfl⟩

/-- BCD stores the three digits at `I` up when they lie inside memory (R144). -/
theorem exec_bcd_of_inside {x : Reg} {s : State} (h : s.i.toNat + 2 ≤ 0xFFF) :
    exec (.bcd x) s = .next (s.setMem (s.mem.writeBytes s.i.toNat (bcdDigits (s.reg x)))) :=
  checkRange_of_inside (.inr (Nat.succ_le_succ h))

/-- LDM loads V0 to Vx from `I` up when the block lies inside memory (R146). -/
theorem exec_ldm_of_inside {x : Reg} {s : State} (h : s.i.toNat + x.val ≤ 0xFFF) :
    exec (.ldm x) s = .next (s.setV (s.loadedRegs x)) :=
  checkRange_of_inside (.inr (Nat.succ_le_succ h))

/-- The decimal digits of a byte fit in a byte each, so none is cut (R144). -/
theorem bcdDigits_toNat (b : Byte) :
    (bcdDigits b)[0].toNat = b.toNat / 100 ∧ (bcdDigits b)[1].toNat = b.toNat / 10 % 10 ∧
      (bcdDigits b)[2].toNat = b.toNat % 10 := by
  have hb := b.isLt
  exact ⟨Nat.mod_eq_of_lt (by omega), Nat.mod_eq_of_lt (by omega), Nat.mod_eq_of_lt (by omega)⟩

/-- A register LDM names is loaded from its place in the block at `I` (R146). -/
theorem State.reg_setV_loadedRegs_of_le (s : State) {x r : Reg} (h : r ≤ x) :
    (s.setV (s.loadedRegs x)).reg r = s.mem.read (s.i.toNat + r.val) :=
  (s.getElem_loadedRegs x r).trans (if_pos h)

/-- A register above the block LDM loads keeps its value (R146). -/
theorem State.reg_setV_loadedRegs_of_lt (s : State) {x r : Reg} (h : x < r) :
    (s.setV (s.loadedRegs x)).reg r = s.reg r :=
  s.getElem_loadedRegs_of_not_le (decide_eq_false h.not_ge)

/-- Settles O34: the three bytes read back are the digits, and the rest of memory is outside the block. -/
theorem bcdStoresThreeDigits : Obligations.BcdStoresThreeDigits := by
  intro x s
  refine ⟨fun h => checkRange_of_past_top h, fun h hwf => ⟨_, exec_bcd_of_inside h, rfl, ?_⟩⟩
  have hread (k : Nat) (hk : k < 3) :
      ((s.mem.writeBytes s.i.toNat (bcdDigits (s.reg x))).read (s.i.toNat + k)).toNat =
        (bcdDigits (s.reg x))[k].toNat :=
    congrArg BitVec.toNat (Memory.read_writeBytes_inside hwf.1 hk)
  obtain ⟨hhundreds, htens, hones⟩ := bcdDigits_toNat (s.reg x)
  exact ⟨(hread 0 (by decide)).trans hhundreds, (hread 1 (by decide)).trans htens,
    (hread 2 (by decide)).trans hones, fun _ ha => Memory.read_writeBytes_of_outside hwf.1 ha⟩

/-- Settles O35: the stored block reads back register by register, and has `x + 1` bytes. -/
theorem stmStoresTheBlock : Obligations.StmStoresTheBlock := by
  intro x s
  refine ⟨fun h => checkRange_of_past_top h, fun h hwf => ⟨_, exec_stm_of_inside h, rfl, ?block, fun a ha => ?others⟩⟩
  case block => exact fun r hr => s.read_writeBytes_regBlock hwf s.i.toNat hr
  case others =>
    refine Memory.read_writeBytes_of_outside hwf.1 ?_
    rwa [State.length_regBlock]

/-- Settles O36: the bounds check passes or names `I + x`, and the new register file is the loaded one. -/
theorem ldmLoadsTheBlock : Obligations.LdmLoadsTheBlock := fun _ s =>
  ⟨fun h => checkRange_of_past_top h, fun h => ⟨_, exec_ldm_of_inside h, rfl,
    fun _ hr => s.reg_setV_loadedRegs_of_le hr, fun _ hr => s.reg_setV_loadedRegs_of_lt hr⟩⟩

/-- Settles O37: the load reads the stored block at the same `I`, whatever the registers hold in between. -/
theorem storeThenLoadRestoresTheRegisters : Obligations.StoreThenLoadRestoresTheRegisters := by
  intro x s hin hwf
  refine ⟨_, exec_stm_of_inside hin, rfl, fun v => ⟨_, exec_ldm_of_inside hin, rfl, fun r hr => ?_⟩⟩
  rw [State.reg_setV_loadedRegs_of_le _ hr]
  exact s.read_writeBytes_regBlock hwf s.i.toNat hr

/-- The highest glyph address is `FONT_BASE` + 5 * 0xFF, so FONT's sum is exact (R143). -/
theorem fontAddress_toNat (b : Byte) : (BitVec.ofNat 16 (fontBase + 5 * b.toNat)).toNat = fontBase + 5 * b.toNat := by
  have hb := b.isLt
  rw [BitVec.toNat_ofNat, fontBase, Nat.mod_eq_of_lt (by omega)]

/-- Settles O33: the address of LDIX and the sum of FONT fit in `I`; only the sum of ADDIX is cut, to 2^16. -/
theorem indexRegisterWrites : Obligations.IndexRegisterWrites := fun nnn x s =>
  ⟨⟨s.setI (addrOperand nnn), rfl, addrOperand_toNat nnn, rfl⟩, ⟨_, rfl, BitVec.toNat_ofNat _ 16, rfl⟩,
    ⟨_, rfl, fontAddress_toNat (s.reg x), rfl⟩⟩

end Sys2Proof.Machine
end

section
/-! The display instructions (R161 to R163): which pixels DRW draws, what drawing leaves of the framebuffer and of the
registers, and drawing twice. -/

namespace Sys2Proof.Machine

/-- Settles O39. -/
theorem clsClearsEveryCell : Obligations.ClsClearsEveryCell := fun s =>
  ⟨s.setFb Framebuffer.clear, rfl, rfl, Framebuffer.cell_clear⟩

section
variable {x y : Reg} {n : BitVec 4} {s t : State}

theorem State.getElem_spriteRows {r : Nat} (h : r < (s.spriteRows n).length) :
    (s.spriteRows n)[r] = s.mem.read (s.i.toNat + r) :=
  s.mem.getElem_readBytes _ _ r h

/-- The pixels DRW draws are the covered cells (R162, R163). -/
theorem State.mem_spritePixels_spriteRows {px : Fin 64} {py : Fin 32} :
    (px, py) ∈ spritePixels (s.reg x).toNat (s.reg y).toNat (s.spriteRows n) ↔ s.Covered x y n px py := by
  simp only [mem_spritePixels, State.getElem_spriteRows, State.length_spriteRows, exists_prop, Prod.ext_iff,
    Fin.ext_iff, Fin.val_ofNat, State.Covered]

theorem State.cell_drawn_of_covered {px : Fin 64} {py : Fin 32} (h : s.Covered x y n px py) :
    (s.drawn x y n).1.cell px py = !s.fb.cell px py := by
  rw [State.drawn, drawPixels_cell _ (s.nodup_spritePixels _ _ n),
    decide_eq_true (State.mem_spritePixels_spriteRows.2 h), Bool.xor_true]

theorem State.cell_drawn_of_not_covered {px : Fin 64} {py : Fin 32} (h : ¬ s.Covered x y n px py) :
    (s.drawn x y n).1.cell px py = s.fb.cell px py := by
  rw [State.drawn, drawPixels_cell _ (s.nodup_spritePixels _ _ n),
    decide_eq_false (mt State.mem_spritePixels_spriteRows.1 h), Bool.xor_false]

/-- `hit` is set exactly when some covered cell was on (R162). -/
theorem State.drawn_hit :
    (s.drawn x y n).2 = true ↔ ∃ px py, s.Covered x y n px py ∧ s.fb.cell px py = true := by
  rw [State.drawn, drawPixels_hit _ (s.nodup_spritePixels _ _ n), List.any_eq_true]
  simp only [Prod.exists, State.mem_spritePixels_spriteRows]

/-- The state DRW goes on to: the drawn framebuffer, and `hit` in `VF` (R162). -/
def State.afterDrw (s : State) (x y : Reg) (n : BitVec 4) : State :=
  (s.setFb (s.drawn x y n).1).setVF (s.drawn x y n).2

/-- DRW completes exactly when it has no row or its last row lies inside memory (R55). -/
theorem exec_drw_eq_next :
    exec (.drw x y n) s = .next t ↔ (n.toNat = 0 ∨ s.i.toNat + n.toNat ≤ 0x1000) ∧ t = s.afterDrw x y n :=
  checkRange_eq_next

theorem State.reg_afterDrw (r : Reg) :
    (s.afterDrw x y n).reg r = if r = 15 then flagByte (s.drawn x y n).2 else s.reg r :=
  State.reg_setVF _ _ r

theorem State.reg_afterDrw_of_ne {r : Reg} (h : r ≠ 15) : (s.afterDrw x y n).reg r = s.reg r := by
  rw [State.reg_afterDrw, if_neg h]

theorem State.flag_afterDrw : (s.afterDrw x y n).reg 15 = flagByte (s.drawn x y n).2 := by
  rw [State.reg_afterDrw, if_pos rfl]

theorem flagByte_eq_one {c : Bool} : flagByte c = 1 ↔ c = true := by
  cases c <;> decide

/-- `VF` after DRW is 1 exactly when some covered cell was on (R162). -/
theorem State.flag_afterDrw_eq_one :
    (s.afterDrw x y n).reg 15 = 1 ↔ ∃ px py, s.Covered x y n px py ∧ s.fb.cell px py = true := by
  rw [State.flag_afterDrw, flagByte_eq_one, State.drawn_hit]

/-- Where the coordinates are not in `VF`, DRW leaves the sprite's rows and place as they were, so the same cells are
covered again. -/
theorem State.covered_afterDrw (hx : x ≠ 15) (hy : y ≠ 15) {px : Fin 64} {py : Fin 32} :
    (s.afterDrw x y n).Covered x y n px py ↔ s.Covered x y n px py := by
  unfold State.Covered
  rw [State.reg_afterDrw_of_ne hx, State.reg_afterDrw_of_ne hy]
  rfl

/-- A covered cell inverted twice is as it was, and the others never change (R163). -/
theorem State.fb_afterDrw_afterDrw (hx : x ≠ 15) (hy : y ≠ 15) :
    ((s.afterDrw x y n).afterDrw x y n).fb = s.fb := by
  refine Framebuffer.ext_cell fun px py => ?_
  by_cases h : s.Covered x y n px py
  · calc ((s.afterDrw x y n).drawn x y n).1.cell px py
        = !(s.drawn x y n).1.cell px py := State.cell_drawn_of_covered ((State.covered_afterDrw hx hy).2 h)
      _ = s.fb.cell px py := by rw [State.cell_drawn_of_covered h, Bool.not_not]
  · calc ((s.afterDrw x y n).drawn x y n).1.cell px py
        = (s.drawn x y n).1.cell px py := State.cell_drawn_of_not_covered (mt (State.covered_afterDrw hx hy).1 h)
      _ = s.fb.cell px py := State.cell_drawn_of_not_covered h

/-- The second flag of drawing twice: a covered cell is on after the first draw exactly when it was off before
(R163). -/
theorem State.flag_afterDrw_afterDrw_eq_one (hx : x ≠ 15) (hy : y ≠ 15) :
    ((s.afterDrw x y n).afterDrw x y n).reg 15 = 1 ↔
      ∃ px py, s.Covered x y n px py ∧ s.fb.cell px py = false := by
  rw [State.flag_afterDrw_eq_one]
  refine exists_congr fun px => exists_congr fun py => ?_
  rw [State.covered_afterDrw hx hy]
  refine and_congr_right fun h => ?_
  have hcell : (s.afterDrw x y n).fb.cell px py = !s.fb.cell px py := State.cell_drawn_of_covered h
  rw [hcell, Bool.not_eq_true']

end

/-- Settles O40: the bounds check passes or names the last row, the drawn cells are the covered ones, and `VF` holds
`hit`. -/
theorem drwXorsTheSprite : Obligations.DrwXorsTheSprite := by
  intro x y n s
  refine ⟨fun hn h => checkRange_eq_fault.2 ⟨hn, h, rfl⟩, fun h => ?_⟩
  have hin : n.toNat = 0 ∨ s.i.toNat + n.toNat ≤ 0x1000 := by omega
  refine ⟨s.afterDrw x y n, exec_drw_eq_next.2 ⟨hin, rfl⟩, rfl, fun _ _ hc => State.cell_drawn_of_covered hc,
    fun _ _ hc => State.cell_drawn_of_not_covered hc, State.flag_afterDrw_eq_one.2, fun hnone => ?noHit,
    fun _ hr => State.reg_afterDrw_of_ne hr⟩
  case noHit =>
    rw [State.flag_afterDrw, Bool.eq_false_of_not_eq_true (mt State.drawn_hit.1 hnone)]
    rfl

/-- Settles O41: the second draw reads the same rows at the same place, so it covers the same cells. -/
theorem drawingTwiceRestoresTheScreen : Obligations.DrawingTwiceRestoresTheScreen := by
  intro x y n s t hx hy h
  obtain ⟨hin, rfl⟩ := exec_drw_eq_next.1 h
  exact ⟨(s.afterDrw x y n).afterDrw x y n, exec_drw_eq_next.2 ⟨hin, rfl⟩, State.fb_afterDrw_afterDrw hx hy,
    State.flag_afterDrw_eq_one, State.flag_afterDrw_afterDrw_eq_one hx hy⟩

end Sys2Proof.Machine
end

section
/-! The key and timer instructions (R170 to R176): the wait for a key and the step that repeats it, the skips on a key,
and the copies between a register and a timer. -/

namespace Sys2Proof.Machine

/-- No key is down exactly when each of the 16 is up (R170). -/
theorem keys_eq_zero_iff {p : BitVec 16} : p = 0 ↔ ∀ k < 16, p.getLsbD k = false := by
  refine BitVec.zero_iff_eq_false.trans ⟨fun hup k _ => hup k, fun hup k => ?_⟩
  rcases Nat.lt_or_ge k 16 with hk | hk
  · exact hup k hk
  · exact BitVec.getLsbD_of_ge p k hk

/-- A key number is not cut when it is written to a register (R174). -/
theorem keyNumber_toNat (k : Reg) : (BitVec.ofNat 8 k.val).toNat = k.val :=
  Nat.mod_eq_of_lt (k.isLt.trans (by decide))

/-- Settles O44: where some key is down, the number written is KEY_PICK's, which is that of a pressed key. -/
theorem wkeyWaitsOrDeliversAPressedKey : Obligations.WkeyWaitsOrDeliversAPressedKey := by
  intro x s
  refine ⟨fun hup => exec_wkey_of_no_key (keys_eq_zero_iff.2 hup), ?_⟩
  rintro ⟨k, hlt, hk⟩
  have hdown : s.keys ≠ 0 := fun hnone => Bool.false_ne_true ((keys_eq_zero_iff.1 hnone k hlt).symm.trans hk)
  obtain ⟨t, hexec, hframe, ⟨hkey, hpressed⟩, hothers⟩ :
      WritesReg (.wkey x) s x fun b => b.toNat < 16 ∧ s.keys.getLsbD b.toNat = true := by
    refine writesReg_of_setReg (exec_wkey_of_key hdown) ?_
    rw [keyNumber_toNat]
    exact ⟨(keyPick s.keys).isLt, keyPick_pressed hdown⟩
  exact ⟨t, hexec, hframe, hkey, hpressed, hothers⟩

/-- A waiting WKEY takes the advanced `PC` back to its own address (R24, R174). -/
theorem exec_wkey_ready_of_no_key {s : State} {x : Reg} (h : s.presentedKeys = 0) :
    exec (.wkey x) s.ready = .next (s.ready.setPc s.pc) := by
  rw [exec_wkey_of_no_key (s := s.ready) h, State.ready_pc, BitVec.add_sub_cancel]

/-- Settles O45: `PC` and memory are as before the step, so the same word stands there, and what else happened is the
end of the step. -/
theorem waitingWkeyStepRepeats : Obligations.WaitingWkeyStepRepeats := fun _ _ hpc hi hup =>
  ⟨_, step_of_exec hpc hi (exec_wkey_ready_of_no_key hup), rfl, rfl, rfl, rfl, rfl, rfl, rfl, rfl, rfl⟩

/-- SKP skips on the key `V[x]` numbers when there is such a key (R171). -/
theorem exec_skp_of_le {x : Reg} {s : State} (h : (s.reg x).toNat ≤ 15) :
    exec (.skp x) s = .next (s.skipIf (s.keys.getLsbD (s.reg x).toNat)) :=
  withKey_eq_next.2 ⟨h, rfl⟩

/-- SKNP skips on the other level of the same key (R172). -/
theorem exec_sknp_of_le {x : Reg} {s : State} (h : (s.reg x).toNat ≤ 15) :
    exec (.sknp x) s = .next (s.skipIf (!s.keys.getLsbD (s.reg x).toNat)) :=
  (withKey_eq_next (go := fun down => s.skipIf (!down))).2 ⟨h, rfl⟩

/-- A value above 15 numbers no key, and neither instruction takes one (R171, R172, D9). -/
theorem exec_skp_sknp_of_gt {x : Reg} {s : State} (h : 15 < (s.reg x).toNat) :
    exec (.skp x) s = .fault (.keyIndexOutOfRange (s.reg x)) ∧
      exec (.sknp x) s = .fault (.keyIndexOutOfRange (s.reg x)) :=
  have hfault (go : Bool → State) : withKey x s go = .fault (.keyIndexOutOfRange (s.reg x)) :=
    withKey_eq_fault.2 ⟨h, rfl⟩
  ⟨hfault fun down => s.skipIf down, hfault fun down => s.skipIf (!down)⟩

/-- Settles O42: both test the same key, or fault alike, and one skips where the other does not. -/
theorem keySkips : Obligations.KeySkips := by
  intro x s
  refine ⟨exec_skp_sknp_of_gt, fun hle hdown => ?down, fun hle hup => ?up⟩
  case down =>
    exact ⟨skips_of_true (exec_skp_of_le hle) hdown,
      exec_of_skipIf_false (exec_sknp_of_le hle) (congrArg not hdown)⟩
  case up =>
    exact ⟨exec_of_skipIf_false (exec_skp_of_le hle) hup,
      skips_of_true (exec_sknp_of_le hle) (congrArg not hup)⟩

/-- Settles O43. -/
theorem timerReadsAndWrites : Obligations.TimerReadsAndWrites := fun _ s =>
  ⟨writesReg_of_setReg (P := (· = s.dt)) rfl rfl, rfl, rfl⟩

end Sys2Proof.Machine
end

section
/-! The faults (R200, R201): which instruction faults on which states and with which fault, and that only the fetch
raises `FetchOutOfBounds`. -/

namespace Sys2Proof.Machine

/-- Each instruction of the opcode map has its meaning (R76). -/
theorem exec_ne_refused (i : Instr) (s : State) (r : Refusal) : exec i s ≠ .refused r := by
  cases i with
  | ret => exact popAndJump_ne_refused
  | call => exact pushAndJump_ne_refused
  | drw | bcd | stm | ldm => exact checkRange_ne_refused
  | skp x => exact withKey_ne_refused (go := fun down => s.skipIf down)
  | sknp x => exact withKey_ne_refused (go := fun down => s.skipIf (!down))
  | _ => nofun

/-- Settles O20: RET, CALL, the four accesses to memory and the two key skips fault as their shared operation does; the
arm of every other instruction answers a next state. -/
theorem instructionsFaultExactlyAsListed : Obligations.InstructionsFaultExactlyAsListed := by
  refine ⟨fun i s f => ?_, exec_ne_refused⟩
  cases i with
  | ret => simp [exec, execRet, popAndJump_eq_fault]
  | call nnn => simp [exec, execCall, pushAndJump_eq_fault]
  | drw x y n => simp [exec, execDrw, checkRange_eq_fault]
  | bcd x => simp [exec, execBcd, checkRange_eq_fault]
  | stm x => simp [exec, execStm, checkRange_eq_fault]
  | ldm x => simp [exec, execLdm, checkRange_eq_fault]
  | skp x => simp [exec, execSkp, withKey_eq_fault]
  | sknp x => simp [exec, execSknp, withKey_eq_fault]
  | _ => exact iff_of_false nofun (by simp)

/-- No instruction raises the fault of the fetch (R201). -/
theorem exec_ne_fetchOutOfBounds (i : Instr) (s : State) (a : Word) : exec i s ≠ .fault (.fetchOutOfBounds a) := by
  obtain ⟨hfaults, -⟩ := instructionsFaultExactlyAsListed
  simp [hfaults]

/-- Settles O11: a step that can fetch faults only as its instruction does. -/
theorem fetchPastTheTopFaults : Obligations.FetchPastTheTopFaults := by
  intro s
  refine ⟨fun hpc => step_of_not_fetchable (Nat.lt_succ_of_le hpc), fun hpc a h => ?_⟩
  obtain hfetch | ⟨w, i, -, -, hexec⟩ := step_fault_cases h
  · obtain ⟨htop, -⟩ := State.fetch_eq_error.1 hfetch
    omega
  · exact exec_ne_fetchOutOfBounds i s.ready a hexec

end Sys2Proof.Machine
end

section
/-! The timers over a whole step (R173, R175, R176, R212). -/

namespace Sys2Proof.Machine

/-- A completed step ran the instruction the word at `PC` decodes to, or that word is an Unknown word. -/
theorem step_next_wordAtPc {s t : State} (h : step s = .next t) :
    (∃ i u, decode s.wordAtPc = .ok i ∧ exec i s.ready = .next u ∧ t = u.endStep false) ∨
      ∃ e, decode s.wordAtPc = .error e ∧ t = s.ready.endStep true := by
  obtain ⟨w, hw, hcases⟩ := step_next_cases h
  obtain ⟨-, rfl⟩ := State.fetch_eq_ok.1 hw
  exact hcases

/-- Only WRDT writes `DT` while an instruction executes (R20). -/
theorem exec_keeps_dt {i : Instr} {s u : State} (h : exec i s = .next u) (hi : ∀ x, i ≠ .wrdt x) : u.dt = s.dt := by
  obtain ⟨-, -, -, hdt, -⟩ := eachComponentHasItsWriters i s u h
  refine hdt ?_
  cases i with
  | wrdt x => exact absurd rfl (hi x)
  | _ => rfl

/-- Only WRST writes `ST` while an instruction executes (R20). -/
theorem exec_keeps_st {i : Instr} {s u : State} (h : exec i s = .next u) (hi : ∀ x, i ≠ .wrst x) : u.st = s.st := by
  obtain ⟨-, -, -, -, hst, -⟩ := eachComponentHasItsWriters i s u h
  refine hst ?_
  cases i with
  | wrst x => exact absurd rfl (hi x)
  | _ => rfl

/-- Settles O13: the tick follows the instruction, and an Unknown word leaves the timers to the tick. -/
theorem timersTickInEveryCompletedStep : Obligations.TimersTickInEveryCompletedStep := by
  intro s t h
  obtain ⟨i, u, hi, hu, rfl⟩ | ⟨e, he, rfl⟩ := step_next_wordAtPc h
  · simp only [hi, Except.ok.injEq, ne_eq, State.endStep_dt, State.endStep_st, State.reg_endStep, decTimer_toNat]
    refine ⟨?wrdt, fun hne => by rw [exec_keeps_dt hu hne, State.ready_dt], ?wrst,
      fun hne => by rw [exec_keeps_st hu hne, State.ready_st], ?rddt⟩
    case wrdt | wrst =>
      rintro x rfl
      cases hu
      rfl
    case rddt =>
      rintro x rfl
      cases hu
      exact State.reg_setReg_self s.ready x s.dt
  · simp [he, decTimer_toNat]

end Sys2Proof.Machine
end

section
/-! The host's view of the state (R217). -/

namespace Sys2Proof.Machine

/-- Bit `k` of the view is the cell in column `k mod 64` of row `k / 64` (R217, D12). -/
theorem Framebuffer.getLsbD_port (f : Framebuffer) {k : Nat} (hk : k < 2048) :
    f.port.getLsbD k = f.cell (Fin.ofNat 64 k) (Fin.ofNat 32 (k / 64)) := by
  rw [Framebuffer.port, BitVec.getLsbD_ofFnLE, dif_pos hk]

/-- Settles O50: dividing `py * 64 + px` by 64 gives `py` and leaves `px`. -/
theorem hostViewShowsTheCells : Obligations.HostViewShowsTheCells := by
  intro s px py
  have hx := px.isLt
  have hy := py.isLt
  have hcol : Fin.ofNat 64 (py.val * 64 + px.val) = px := Fin.ext (by simp only [Fin.val_ofNat]; omega)
  have hrow : Fin.ofNat 32 ((py.val * 64 + px.val) / 64) = py := Fin.ext (by simp only [Fin.val_ofNat]; omega)
  refine ⟨?_, rfl, rfl⟩
  rw [State.hostView, Framebuffer.getLsbD_port s.fb (by omega), hcol, hrow]

end Sys2Proof.Machine
end

section
/-! The host's `reset(rom)` (R230 to R232): when it completes, what it leaves, and when it is a load error. -/

namespace Sys2Proof.Machine

/-- The state `reset(rom)` leaves: reset with the image at 0x200, the host's pending inputs kept (R230; log
entry 10). -/
def State.loaded (s : State) (rom : List Byte) : State :=
  { State.reset with mem := State.reset.mem.writeBytes 0x200 rom, inputs := s.inputs, stepNo := s.stepNo }

section
variable {rom : List Byte} {s : State}

theorem romWellFormed_iff : romWellFormed rom = true ↔ rom.length ≤ 3584 := decide_eq_true_iff

/-- `reset(rom)` completes exactly when the image fits between 0x200 and 0xFFF (R230). -/
theorem load_eq_next {t : State} : load rom s = .next t ↔ rom.length ≤ 3584 ∧ t = s.loaded rom := by
  rw [load, ← romWellFormed_iff]
  split
  · next hfit => simp [hfit, State.loaded, eq_comm]
  · next hlong => simp [hlong]

/-- `reset(rom)` is a load error exactly when the image does not fit (R232). -/
theorem load_eq_fault {f : Fault} : load rom s = .fault f ↔ 3584 < rom.length ∧ f = .loadError rom.length := by
  rw [load, ← Nat.not_le, ← romWellFormed_iff]
  split
  · next hfit => simp [hfit]
  · next hlong => simp [hlong, eq_comm]

/-- Byte `k` of the image stands at 0x200 + `k` (R230). -/
theorem State.read_loaded_image (s : State) {k : Nat} (h : k < rom.length) :
    (s.loaded rom).mem.read (0x200 + k) = rom[k] :=
  Memory.read_writeBytes_inside Memory.wf_nil.1 h

/-- Outside the image memory reads as reset leaves it (R34). -/
theorem State.read_loaded_of_outside (s : State) {a : Nat} (h : a < 0x200 ∨ 0x200 + rom.length ≤ a) :
    (s.loaded rom).mem.read a = initialByte a :=
  Memory.read_writeBytes_of_outside Memory.wf_nil.1 h

/-- The font table lies below the image (R33, R56). -/
theorem fontBase_add_80_le : fontBase + 80 ≤ 0x200 := by decide

/-- The image keeps the invariant of reset while it lies inside memory. -/
theorem State.loaded_inv (s : State) (h : rom.length ≤ 3584) : (s.loaded rom).Inv := by
  have hstored := resetSatisfiesTheInvariant.store (a := 0x200) (bs := rom) (by omega)
  exact ⟨hstored.mem_wf, hstored.stack_depth, hstored.stack_entries, hstored.pc_bound⟩

end

/-- Settles O2: every component but memory has its value of reset or is kept; memory is reset's outside the image, and
the font table is outside it. -/
theorem loadPlacesTheProgram : Obligations.LoadPlacesTheProgram := by
  intro rom s hlen
  refine ⟨s.loaded rom, load_eq_next.2 ⟨hlen, rfl⟩, State.reg_reset, rfl, rfl, rfl, rfl, rfl,
    fun _ _ => BitVec.getLsbD_zero, Framebuffer.cell_clear, fun _ h => s.read_loaded_image h, fun k hk => ?font,
    fun a ha => ?zeros, (s.loaded_inv hlen).mem_wf, rfl, rfl⟩
  case font =>
    have hbelow : fontBase + k < 0x200 := (Nat.add_lt_add_left hk _).trans_le fontBase_add_80_le
    rw [s.read_loaded_of_outside (.inl hbelow), initialByte_font hk]
  case zeros =>
    have hfont := fontBase_add_80_le
    rw [s.read_loaded_of_outside (by omega), initialByte_of_not_font (by omega)]

/-- Settles O3. -/
theorem loadOfTooLongImageFails : Obligations.LoadOfTooLongImageFails := fun rom _ hlen =>
  ⟨.loadError rom.length, load_eq_fault.2 ⟨hlen, rfl⟩, rfl, rfl, rfl⟩

/-- Settles O48. -/
theorem loadSatisfiesTheInvariant : Obligations.LoadSatisfiesTheInvariant := by
  intro rom s t h
  obtain ⟨hlen, rfl⟩ := load_eq_next.1 h
  exact s.loaded_inv hlen

end Sys2Proof.Machine
end

section
/-! The parked state (R240). -/

namespace Sys2Proof.Machine

/-- A jump to its own address takes the advanced `PC` back there (R24, R102, R240). -/
theorem exec_jp_ready_of_self {s : State} {nnn : BitVec 12} (h : nnn.toNat = s.pc.toNat) :
    exec (.jp nnn) s.ready = .next s.latchKeys := by
  have htarget : addrOperand nnn = s.pc := BitVec.eq_of_toNat_eq ((addrOperand_toNat nnn).trans h)
  rw [exec, execJp, htarget]
  rfl

/-- Settles O46: the jump leaves the latched keys and the end of the step, and neither touches `PC` or memory, on which
being parked depends. -/
theorem parkedStateStaysParked : Obligations.ParkedStateStaysParked := by
  intro s hparked
  obtain ⟨hpc, nnn, hjump, hself⟩ := hparked
  exact ⟨s.latchKeys.endStep false, step_of_exec hpc hjump (exec_jp_ready_of_self hself),
    ⟨hpc, nnn, hjump, hself⟩, rfl⟩

end Sys2Proof.Machine
end
